-- ==== Sys2Proof/Word.lean ====
section
/-! DEFINITION. The words of the machine and their names (00_scope.md rules R5, R7). -/

namespace Sys2Proof

/-- 8 bits: a general register, a timer, a memory cell (R5 `XLEN`, `TIMER_W`). -/
abbrev Byte := BitVec 8

/-- 16 bits: an instruction word, `I`, `pc`, a stack entry (R5 `ILEN`, `IW`, `PCW`, `STACK_W`). -/
abbrev Word := BitVec 16

/-- 64 bits: one display row, bit 63 the leftmost column (R5 `ROW_W`, R21). -/
abbrev Row := BitVec 64

/-- 12 bits: the address field `nnn` (R51). -/
abbrev Addr12 := BitVec 12

/-- The number of a general register, 0x0 to 0xF (R11). -/
abbrev Reg := Fin 16

/-- `VF`, the implicit flag output; an ordinary register otherwise (R12). -/
abbrev regF : Reg := 15

end Sys2Proof
end

