-- ==== Sys2Proof/Config.lean ====
section
/-! DEFINITION. The sizes the spec fixes (00_scope.md rule R5) and two of the parameters it leaves open (R6): `FONT`,
the bytes of the digit sprite table (R22, D20), and `RandomSource`, the byte of a Draw (R157). Neither has a body, so
nothing can be proved of its values and a claim holds for every one. `VF_WRITE_ORDER` is `Machine.vfWriteOrder` in
Machine/Flags.lean. -/

namespace Sys2Proof

/-- `MEM_SIZE`: bytes of memory (R5, R30). -/
abbrev Config.memSize : Nat := 4096

/-- `PROG_BASE`: the load address and the reset value of `pc` (R5, R193). -/
abbrev Config.progBase : Nat := 0x200

/-- `GLYPH_BYTES`: bytes of one digit sprite (R5, R22). -/
abbrev Config.glyphBytes : Nat := 5

/-- The longest program image, `MEM_SIZE - PROG_BASE` (46_host_interface.md rule R152). -/
abbrev Config.maxImage : Nat := 3584

/-- `FONT`, the parameter of 80 bytes that memory holds at 0x000 to 0x04F at reset (10_state.md rules R22, R27; D20). It
has no body: a claim holds for every table. A claim about the conventional table names it, by the premise
`Machine.UsesDefaultFont`. Log 2, safe. -/
opaque Config.font : Vector Byte 80

/-- The byte the random source answers to its `n`-th Draw (R157): "The answer is any value 0 to 255." It has no
body, so nothing can be proved of it and a claim holds for every sequence of draws (R113). Log 1, safe. -/
opaque Config.randomByte : Nat → Byte

@[simp] theorem Config.memSize_eq : Config.memSize = 4096 := rfl
@[simp] theorem Config.progBase_eq : Config.progBase = 512 := rfl
@[simp] theorem Config.glyphBytes_eq : Config.glyphBytes = 5 := rfl
@[simp] theorem Config.maxImage_eq : Config.maxImage = 3584 := rfl

end Sys2Proof
end

