-- ==== Sys2Proof/Machine/State.lean ====
section
/-! DEFINITION. What the machine holds, why it stops, and the state after reset (10_state.md; 60_exceptions.md R170;
70_reset_and_hazards.md R191). -/

namespace Sys2Proof.Machine

/-- What an OutOfBounds fault carries (60_exceptions.md rule R174). -/
inductive OobInfo where
  /-- an access to `mem` at an address of 4096 or more -/
  | mem (a : Nat)
  /-- a sprite row falling on display row 32 or more -/
  | row (r : Nat)
deriving DecidableEq, Repr

/-- The five causes of 60_exceptions.md rule R170 with the info each carries. Every one is the spec's own fault, and
"a faulted core has no successor state" (R175): stopping is what the spec says, safe. -/
inductive Fault where
  /-- code 1: a Step whose fetched word selects no row of the opcode map (R171); raised by `step`; safe -/
  | unsupportedInstruction (w : Word)
  /-- code 2: CALL with sixteen calls outstanding (R172); raised by `execCall`; safe -/
  | stackOverflow
  /-- code 3: RET with no outstanding call (R173); raised by `execRet`; safe (the spec's decision D7) -/
  | stackUnderflow
  /-- code 4: a memory address of 4096 or more, or a display row of 32 or more (R174); raised by the fetch, `execDrw`,
  `execLdB`, `execDump`, `execLoad`; safe (the spec's decisions D8, D13) -/
  | outOfBounds (info : OobInfo)
  /-- code 5: a key number above 15 (R176); raised by `execSkp`, `execSknp` and the transactions KeyDown and KeyUp;
  safe (the spec's decisions D15, D25) -/
  | invalidKey (k : Nat)
deriving DecidableEq, Repr

/-- Why the model has no meaning for a request. -/
inductive Refusal where
  /-- an instruction with no meaning in the model; raised by a refused arm of `exec`, of which there is none; safe -/
  | notModelled (mnemonic : String)
  /-- a Load of more than 3584 bytes: the host answers for it (46_host_interface.md rule R152, D24: "more than 3584
  bytes is refused with the state unchanged"); raised by the transaction Load alone, never by a Step; safe -/
  | imageTooLong
deriving DecidableEq, Repr

/-- Memory as the list of the cells that differ from the reset contents, addresses strictly rising (log 8). -/
abbrev Memory := List Host.Cell

/-- The twelve state elements of 10_state.md rule R10, under the spec's names, and the model's own counter of draws. -/
structure State where
  /-- `V[0..15]`, the general registers (R11, R12) -/
  v     : Vector Byte 16
  /-- `I`, the index register (R13) -/
  i     : Word
  /-- `pc`, the address of the next fetch (R14) -/
  pc    : Word
  /-- `stack[0..15]`, return addresses (R15) -/
  stack : Vector Word 16
  /-- `sp`, the number of outstanding calls and the next free entry, 0 to 16 (R16) -/
  sp    : Fin 17
  /-- `mem[0..4095]` (R17) -/
  mem   : Memory
  /-- `dt`, the delay timer (R18) -/
  dt    : Byte
  /-- `st`, the sound timer (R19) -/
  st    : Byte
  /-- `key[0..15]`, true while held down (R20) -/
  key   : Vector Bool 16
  /-- `disp[0..31]`, bit 63 the leftmost column (R21) -/
  disp  : Vector Row 32
  /-- `wait`: `none` is Running, `some x` is AwaitingKey(x) (R23) -/
  wait  : Option Reg
  /-- `fault`, the latch of the first fault (R24) -/
  fault : Option Fault
  /-- THE MODEL'S OWN: how many bytes the random source has answered (log 1) -/
  draws : Nat
deriving DecidableEq, Repr

/-- The machine right after Reset (R10, R191): every element zeroed, `pc` = 0x200, memory with nothing listed, that
is the parameter `FONT` and zeros. `draws` = 0 is the model's own choice (log 1). -/
def State.reset : State where
  v     := Vector.replicate 16 0
  i     := 0
  pc    := 0x200
  stack := Vector.replicate 16 0
  sp    := 0
  mem   := []
  dt    := 0
  st    := 0
  key   := Vector.replicate 16 false
  disp  := Vector.replicate 32 0
  wait  := none
  fault := none
  draws := 0

end Sys2Proof.Machine
end

