-- ==== Sys2Proof/Machine/Memory.lean ====
section
/-! DEFINITION. The digit sprite table, what memory holds at reset, and reading and writing one byte of the list that
holds memory (10_state.md R17, R22; 20_memory.md R30, R31). Bounds are checked one layer up, in Ops.lean (R36). -/

namespace Sys2Proof.Machine

/-- Glyphs 0 to 3 (10_state.md rule R22). -/
def font03 : List Byte :=
  [0xF0, 0x90, 0x90, 0x90, 0xF0] ++ [0x20, 0x60, 0x20, 0x20, 0x70] ++
  [0xF0, 0x10, 0xF0, 0x80, 0xF0] ++ [0xF0, 0x10, 0xF0, 0x10, 0xF0]

/-- Glyphs 4 to 7 (R22). -/
def font47 : List Byte :=
  [0x90, 0x90, 0xF0, 0x10, 0x10] ++ [0xF0, 0x80, 0xF0, 0x10, 0xF0] ++
  [0xF0, 0x80, 0xF0, 0x90, 0xF0] ++ [0xF0, 0x10, 0x20, 0x40, 0x40]

/-- Glyphs 8 to B (R22). -/
def font8B : List Byte :=
  [0xF0, 0x90, 0xF0, 0x90, 0xF0] ++ [0xF0, 0x90, 0xF0, 0x10, 0xF0] ++
  [0xF0, 0x90, 0xF0, 0x90, 0x90] ++ [0xE0, 0x90, 0xE0, 0x90, 0xE0]

/-- Glyphs C to F (R22). -/
def fontCF : List Byte :=
  [0xF0, 0x80, 0x80, 0x80, 0xF0] ++ [0xE0, 0x90, 0x90, 0x90, 0xE0] ++
  [0xF0, 0x80, 0xF0, 0x80, 0xF0] ++ [0xF0, 0x80, 0xF0, 0x80, 0x80]

/-- The conventional table, which the spec prints as the default value of its parameter `FONT` (R22, D20). The machine
does not use it: memory at reset holds `Config.font`. Log 2. -/
def defaultFont : Vector Byte 80 := ⟨(font03 ++ font47 ++ font8B ++ fontCF).toArray, rfl⟩

/-- What memory holds at address `a` at reset when the digit sprite table is `font`: the table at 0x000 to 0x04F, 0x00
elsewhere (R31, R191). -/
def fontByte (font : Vector Byte 80) (a : Nat) : Byte := if h : a < 80 then font[a] else 0

/-- What memory holds at address `a` at reset, which is what an address that is not listed reads as. -/
def resetByte (a : Nat) : Byte := fontByte Config.font a

/-- The byte at address `a`. -/
def Memory.read : Memory → Nat → Byte
  | [], a => resetByte a
  | c :: cs, a => if c.1 = a then c.2 else Memory.read cs a

/-- A cell put at its place in a rising list that does not hold its address. -/
def Memory.insert (c : Host.Cell) : Memory → Memory
  | [] => [c]
  | d :: ds => if c.1 < d.1 then c :: d :: ds else d :: Memory.insert c ds

/-- The memory with `x` at address `a`; a cell equal to the reset contents is not listed. -/
def Memory.write (m : Memory) (a : Nat) (x : Byte) : Memory :=
  let rest := m.filter (fun c => c.1 != a)
  if x = resetByte a then rest else Memory.insert (a, x) rest

/-- The canonical form: addresses strictly rising, all of them in memory, and no cell equal to what its address reads
as when it is not listed. -/
def Memory.wf (m : Memory) : Bool :=
  decide (m.Pairwise (fun c d => c.1 < d.1)) &&
    m.all (fun c => decide (c.1 < Config.memSize) && c.2 != resetByte c.1)

/-- A byte sequence copied into memory from address `a` up (46_host_interface.md rule R152). -/
def Memory.copy : List Byte → Nat → Memory → Memory
  | [], _, m => m
  | b :: bs, a, m => Memory.copy bs (a + 1) (Memory.write m a b)

end Sys2Proof.Machine
end

