-- ==== Sys2Proof/Machine/Ops.lean ====
section
/-! DEFINITION. The named operations over registers, memory, the return stack and the other state elements, and
raising a fault (00_scope.md rule R8; 20_memory.md R33, R36; 41_flow.md R85, R87; 60_exceptions.md R175). -/

namespace Sys2Proof.Machine

/-- What a Step answers. -/
abbrev Result := Host.Outcome State Fault Refusal

/-! ### Faults (R175) -/

/-- `raise <Cause>(info)`: "the transaction in progress ends; it answers `Fault(cause, info)`"; "a faulted core has no
successor state", so the outcome carries the fault and no state. There is no handler, no saved register and no return
from a fault (R175, R179). -/
def raise (f : Fault) : Result := .fault f

/-- The other half of fault entry, `fault <- Some (cause, info)`, done by the transaction that ends (R175). Every other
element keeps the value it had before that transaction, which R178 permits (log 4). -/
def State.latch (s : State) (f : Fault) : State := { s with fault := some f }

/-- The outcome of an instruction whose checks may raise (R76: it "either completes, ... or raises one fault"). -/
def conclude : Except Fault State → Result
  | .ok s => .next s
  | .error f => raise f

/-- The numeric code of a fault, 1 to 5 (R170, the spec's decision D10). -/
def Fault.code : Fault → Nat
  | .unsupportedInstruction _ => 1
  | .stackOverflow => 2
  | .stackUnderflow => 3
  | .outOfBounds _ => 4
  | .invalidKey _ => 5

/-- The code of the fault latch: 0 for none, otherwise the code of the latched fault (R170, D10). -/
def State.faultCode (s : State) : Nat :=
  match s.fault with
  | none => 0
  | some f => f.code

/-! ### Registers and the other elements (R8) -/

/-- `V[r]`. -/
def State.reg (s : State) (r : Reg) : Byte := s.v[r.val]

/-- `V[r] <- b`. -/
def State.setReg (s : State) (r : Reg) (b : Byte) : State := { s with v := s.v.set r.val b }

/-- `I <- w`. -/
def State.setI (s : State) (w : Word) : State := { s with i := w }

/-- `pc <- w`. -/
def State.setPc (s : State) (w : Word) : State := { s with pc := w }

/-- `dt <- b`. -/
def State.setDt (s : State) (b : Byte) : State := { s with dt := b }

/-- `st <- b`. -/
def State.setSt (s : State) (b : Byte) : State := { s with st := b }

/-- The key latches replaced; only KeyDown and KeyUp do it (R20). -/
def State.setKey (s : State) (k : Reg) (down : Bool) : State := { s with key := s.key.set k.val down }

/-- The display replaced; only CLS and DRW do it (R21). -/
def State.setDisp (s : State) (d : Vector Row 32) : State := { s with disp := d }

/-- `wait <- w` (R23). -/
def State.setWait (s : State) (w : Option Reg) : State := { s with wait := w }

/-- Memory replaced. -/
def State.setMem (s : State) (m : Memory) : State := { s with mem := m }

/-- One more Draw answered (46_host_interface.md rule R157; log 1). -/
def State.countDraw (s : State) : State := { s with draws := s.draws + 1 }

/-- `pc <- pc + 2`: the fetch advance (40_step_cycle.md rule R74), and the extra 2 of a taken skip (41_flow.md R88).
The sum wraps only at values of `pc` that no run reaches (R14, log 6). -/
def State.advance (s : State) : State := s.setPc (s.pc + 2)

/-- "Advance program counter by an extra 2 ... exactly when the condition holds; no skip otherwise" (R88). -/
def State.skipIf (s : State) (c : Bool) : State := if c then s.advance else s

/-! ### Memory (20_memory.md R36) -/

/-- The byte at address `a`, with no check: what claims look at. -/
def State.byteAt (s : State) (a : Nat) : Byte := Memory.read s.mem a

/-- `MemRead(a, 1)`: "if `a ≥ 4096` then `raise OutOfBounds(Mem a)`, else return `mem[a]`". `a` is never reduced. -/
def State.memRead (s : State) (a : Nat) : Except Fault Byte :=
  if a < Config.memSize then .ok (s.byteAt a) else .error (.outOfBounds (.mem a))

/-- `MemWrite(a, 1, b)`: "if `a ≥ 4096` then `raise OutOfBounds(Mem a)`, else `mem[a] <- v`". -/
def State.memWrite (s : State) (a : Nat) (b : Byte) : Except Fault State :=
  if a < Config.memSize then .ok (s.setMem (Memory.write s.mem a b)) else .error (.outOfBounds (.mem a))

/-! ### The return stack (41_flow.md R85, R87) -/

/-- CALL's push: `if sp = 16 then raise StackOverflow(); stack[sp] <- pc; sp <- sp + 1` (R87). -/
def State.push (s : State) : Except Fault State :=
  if h : s.sp.val < 16 then
    .ok { s with stack := s.stack.set s.sp.val s.pc h, sp := ⟨s.sp.val + 1, by omega⟩ }
  else .error .stackOverflow

/-- RET's pop: `if sp = 0 then raise StackUnderflow(); sp <- sp - 1; pc <- stack[sp]`; the entry is not erased (R85). -/
def State.pop (s : State) : Except Fault State :=
  if h : s.sp.val = 0 then .error .stackUnderflow
  else
    .ok { s with
      sp := ⟨s.sp.val - 1, by have := s.sp.isLt; omega⟩
      pc := s.stack[s.sp.val - 1]'(by have := s.sp.isLt; omega) }

/-! ### The key latches (44_keys_timers.md R130) -/

/-- `if k > 15 then raise InvalidKey(k)`, and otherwise the level of latch `k`; the number is not masked (R130, the
spec's decision D15). -/
def State.keyLatch (s : State) (k : Nat) : Except Fault Bool :=
  if h : k < 16 then .ok s.key[k] else .error (.invalidKey k)

end Sys2Proof.Machine
end

