-- ==== Sys2Proof/Machine/Flags.lean ====
section
/-! DEFINITION. The results and flags of the flag-writing operations, each computed from the operands as they were, and
the order in which result and flag are written (42_load_alu.md R104, R108 to R112). -/

namespace Sys2Proof.Machine

/-- A flag as `VF` holds it: "to 0 or to 1" (10_state.md rule R12). -/
def flagByte (c : Bool) : Byte := if c then 1 else 0

/-- The spec's parameter `VF_WRITE_ORDER` (00_scope.md rule R6, D11): which write to `VF` is the later one. -/
inductive VfWriteOrder where
  /-- the result to `V[x]` first, the flag to `V[0xF]` last (R104) -/
  | flagLast
  /-- the other order; no rule of the spec follows it -/
  | flagFirst
deriving DecidableEq, Repr

/-- `VF_WRITE_ORDER = flag_last` (R104, D11; log 3). -/
def vfWriteOrder : VfWriteOrder := .flagLast

/-- Result to `V[x]`, flag to `V[0xF]`, in the order of `vfWriteOrder`: with `x = 0xF` the flag survives (R104). -/
def State.writeWithFlag (s : State) (x : Reg) (result : Byte) (flag : Bool) : State :=
  match vfWriteOrder with
  | .flagLast => (s.setReg x result).setReg regF (flagByte flag)
  | .flagFirst => (s.setReg regF (flagByte flag)).setReg x result

/-- ADD's carry: "1 iff `a+b > 255`" (R108). -/
def carryOut (a b : Byte) : Bool := decide (a.toNat + b.toNat > 255)

/-- SUB's and SUBN's flag: minuend strictly greater than subtrahend (R109, R111, 90_conflicts.md C6). -/
def minuendGreater (minuend subtrahend : Byte) : Bool := decide (minuend.toNat > subtrahend.toNat)

/-- SHR's flag: "the bit that is shifted out (least-significant bit of the operand)" (R110). -/
def shrOut (a : Byte) : Bool := a.getLsbD 0

/-- SHL's flag: "the most-significant bit of the operand before shifting" (R112). -/
def shlOut (a : Byte) : Bool := a.getLsbD 7

/-- DRW's flag for one row: a pixel lit before and unlit after (43_display.md rule R124). -/
def collides (old placed : Row) : Bool := (old &&& placed) != 0

end Sys2Proof.Machine
end

