-- ==== Sys2Proof/Machine/Operands.lean ====
section
/-! DEFINITION. The operand forms (30_encoding.md R53; 45_index_memory.md R139): targets, the one data addressing mode,
the register ranges of the dump and the load, the decimal digits, and the placement of a sprite byte. -/

namespace Sys2Proof.Machine

/-- `zext_16(nnn)`: the address field as `pc` or `I` takes it (R53). -/
def target (nnn : Addr12) : Word := nnn.setWidth 16

/-- `zext_16(b)` (R7). -/
def widen (b : Byte) : Word := b.setWidth 16

/-- "base register `I` plus a small counter": a natural number, never reduced (R139, R36). -/
def State.dataAddr (s : State) (k : Nat) : Nat := s.i.toNat + k

/-- Registers `V0` to `Vx`, ascending (R143). -/
def regsUpTo (x : Reg) : List Reg := (List.finRange 16).filter (fun r => decide (r ≤ x))

/-- `v div 100`, 0 to 2 (45_index_memory.md rule R142). -/
def hundreds (v : Byte) : Byte := BitVec.ofNat 8 (v.toNat / 100)

/-- `(v div 10) mod 10` (R142). -/
def tens (v : Byte) : Byte := BitVec.ofNat 8 (v.toNat / 10 % 10)

/-- `v mod 10` (R142). -/
def ones (v : Byte) : Byte := BitVec.ofNat 8 (v.toNat % 10)

/-- `5 * zext_16(d)`: the address of a digit's sprite, on the unreduced value (R141, the spec's decision D16). -/
def glyphAddr (d : Byte) : Word := BitVec.ofNat 16 (Config.glyphBytes * d.toNat)

/-- `place(b, vx)`: a sprite byte as a 64-bit row drawn from starting column `vx`, by logical shifts that lose the
bits leaving the row (43_display.md rule R123, the spec's decision D12). -/
def place (b : Byte) (vx : Nat) : Row :=
  if vx ≤ 56 then b.setWidth 64 <<< (56 - vx) else b.setWidth 64 >>> (vx - 56)

/-- A timer counted down by one, held at 0 (46_host_interface.md rule R153). -/
def countDown (t : Byte) : Byte := if t = 0 then 0 else t - 1

end Sys2Proof.Machine
end

