-- ==== Sys2Proof/Machine/Display.lean ====
section
/-! DEFINITION. The display: clear and sprite blit (43_display.md). -/

namespace Sys2Proof.Machine

/-- CLS (R121): "Zero all 32 row values." -/
def execCls (s : State) : Result := .next (s.setDisp (Vector.replicate 32 0))

/-- The loop of R122 from sprite row `r` on, with `k` rows to go: per row first the sprite byte's address is checked,
then the display row (D14); `I + r` and `vy + r` are natural numbers, never reduced (R36, D13). It answers the display
and the collision flag so far. -/
def State.blit (s : State) (vx vy : Nat) : Nat → Nat → Vector Row 32 → Bool → Except Fault (Vector Row 32 × Bool)
  | 0, _, d, c => .ok (d, c)
  | k + 1, r, d, c =>
    match s.memRead (s.dataAddr r) with
    | .error f => .error f
    | .ok b =>
      if h : vy + r < 32 then
        State.blit s vx vy k (r + 1) (d.set (vy + r) (d[vy + r] ^^^ place b vx) h)
          (c || collides d[vy + r] (place b vx))
      else .error (.outOfBounds (.row (vy + r)))

/-- DRW Vx,Vy,n (R122): the coordinates are read first, `VF` is written once, last, also when `n = 0`. -/
def execDrw (x y : Reg) (n : Nat) (s : State) : Result :=
  match s.blit (s.reg x).toNat (s.reg y).toNat n 0 s.disp false with
  | .error f => raise f
  | .ok (d, c) => .next ((s.setDisp d).setReg regF (flagByte c))

end Sys2Proof.Machine
end

