-- ==== Sys2Proof/Machine/Flow.lean ====
section
/-! DEFINITION. Control transfer (41_flow.md). `pc` is already `pc_i + 2` when a meaning starts (40_step_cycle.md R74). -/

namespace Sys2Proof.Machine

/-- RET (R85). -/
def execRet (s : State) : Result := conclude s.pop

/-- JP nnn (R86): never faults. -/
def execJp (nnn : Addr12) (s : State) : Result := .next (s.setPc (target nnn))

/-- CALL nnn (R87): the check comes before any write, the saved `pc` is the advanced one. -/
def execCall (nnn : Addr12) (s : State) : Result :=
  match s.push with
  | .error f => raise f
  | .ok t => .next (t.setPc (target nnn))

/-- SE Vx,kk (R88). -/
def execSeImm (x : Reg) (kk : Byte) (s : State) : Result := .next (s.skipIf (s.reg x == kk))

/-- SNE Vx,kk (R89). -/
def execSneImm (x : Reg) (kk : Byte) (s : State) : Result := .next (s.skipIf (s.reg x != kk))

/-- SE Vx,Vy (R90). -/
def execSeReg (x y : Reg) (s : State) : Result := .next (s.skipIf (s.reg x == s.reg y))

/-- SNE Vx,Vy (R91). -/
def execSneReg (x y : Reg) (s : State) : Result := .next (s.skipIf (s.reg x != s.reg y))

/-- JP V0,nnn (R92): the sum is not reduced to 12 bits; it is always `V0` that is added. -/
def execJpV0 (nnn : Addr12) (s : State) : Result := .next (s.setPc (target nnn + widen (s.reg 0)))

end Sys2Proof.Machine
end

