-- ==== Sys2Proof/Machine/IndexMemory.lean ====
section
/-! DEFINITION. The index register and memory (45_index_memory.md). `I` is never changed by an access (R139). -/

namespace Sys2Proof.Machine

/-- ADD I,Vx (R140): modulo 65536, no flag. -/
def execAddI (x : Reg) (s : State) : Result := .next (s.setI (s.i + widen (s.reg x)))

/-- LD F,Vx (R141). -/
def execLdF (x : Reg) (s : State) : Result := .next (s.setI (glyphAddr (s.reg x)))

/-- Bytes written to consecutive addresses from `a` up, each checked as it is reached (R36). -/
def State.storeBytes : List Byte → Nat → State → Except Fault State
  | [], _, s => .ok s
  | b :: bs, a, s =>
    match s.memWrite a b with
    | .error f => .error f
    | .ok t => State.storeBytes bs (a + 1) t

/-- LD B,Vx (R142): hundreds at `I`, tens at `I + 1`, ones at `I + 2`. -/
def execLdB (x : Reg) (s : State) : Result :=
  conclude (State.storeBytes [hundreds (s.reg x), tens (s.reg x), ones (s.reg x)] (s.dataAddr 0) s)

/-- LD [I],Vx (R143): `V0` to `Vx` to `I` to `I + x`, ascending. -/
def execDump (x : Reg) (s : State) : Result :=
  conclude (State.storeBytes ((regsUpTo x).map s.reg) (s.dataAddr 0) s)

/-- `for i in rs: V[i] <- MemRead(I + i, 1)` (R144). -/
def State.loadRegs : List Reg → State → Except Fault State
  | [], s => .ok s
  | r :: rs, s =>
    match s.memRead (s.dataAddr r.val) with
    | .error f => .error f
    | .ok b => State.loadRegs rs (s.setReg r b)

/-- LD Vx,[I] (R144): `V0` to `Vx` from `I` to `I + x`, ascending. -/
def execLoad (x : Reg) (s : State) : Result := conclude (State.loadRegs (regsUpTo x) s)

end Sys2Proof.Machine
end

