-- ==== Sys2Proof/Machine/KeysTimers.lean ====
section
/-! DEFINITION. Keys and timers (44_keys_timers.md). The other half of LD Vx,K is the transaction KeyDown, in
Transactions.lean (46_host_interface.md R154). -/

namespace Sys2Proof.Machine

/-- SKP Vx (R130). -/
def execSkp (x : Reg) (s : State) : Result :=
  match s.keyLatch (s.reg x).toNat with
  | .error f => raise f
  | .ok down => .next (s.skipIf down)

/-- SKNP Vx (R131). -/
def execSknp (x : Reg) (s : State) : Result :=
  match s.keyLatch (s.reg x).toNat with
  | .error f => raise f
  | .ok down => .next (s.skipIf (!down))

/-- LD Vx,DT (R132). -/
def execLdVxDt (x : Reg) (s : State) : Result := .next (s.setReg x s.dt)

/-- LD Vx,K (R133): "state AwaitingKey(x); nothing else changes in this Step". -/
def execLdVxK (x : Reg) (s : State) : Result := .next (s.setWait (some x))

/-- LD DT,Vx (R134). -/
def execLdDtVx (x : Reg) (s : State) : Result := .next (s.setDt (s.reg x))

/-- LD ST,Vx (R135). -/
def execLdStVx (x : Reg) (s : State) : Result := .next (s.setSt (s.reg x))

end Sys2Proof.Machine
end

