-- ==== Sys2Proof/Machine/LoadAlu.lean ====
section
/-! DEFINITION. Loads, register arithmetic and logic, random (42_load_alu.md). None of these can fault. -/

namespace Sys2Proof.Machine

/-- LD Vx,kk (R100). -/
def execLdImm (x : Reg) (kk : Byte) (s : State) : Result := .next (s.setReg x kk)

/-- ADD Vx,kk (R101): modulo 256, `VF` not written as a flag. -/
def execAddImm (x : Reg) (kk : Byte) (s : State) : Result := .next (s.setReg x (s.reg x + kk))

/-- LD Vx,Vy (R102). -/
def execLdReg (x y : Reg) (s : State) : Result := .next (s.setReg x (s.reg y))

/-- LD I,nnn (R103). -/
def execLdI (nnn : Addr12) (s : State) : Result := .next (s.setI (target nnn))

/-- OR Vx,Vy (R105): `VF` is not reset. -/
def execOrReg (x y : Reg) (s : State) : Result := .next (s.setReg x (s.reg x ||| s.reg y))

/-- AND Vx,Vy (R106). -/
def execAndReg (x y : Reg) (s : State) : Result := .next (s.setReg x (s.reg x &&& s.reg y))

/-- XOR Vx,Vy (R107). -/
def execXorReg (x y : Reg) (s : State) : Result := .next (s.setReg x (s.reg x ^^^ s.reg y))

/-- ADD Vx,Vy (R108). -/
def execAddReg (x y : Reg) (s : State) : Result :=
  .next (s.writeWithFlag x (s.reg x + s.reg y) (carryOut (s.reg x) (s.reg y)))

/-- SUB Vx,Vy (R109). -/
def execSub (x y : Reg) (s : State) : Result :=
  .next (s.writeWithFlag x (s.reg x - s.reg y) (minuendGreater (s.reg x) (s.reg y)))

/-- SHR Vx (R110): the field `y` is not used (R57). -/
def execShr (x _y : Reg) (s : State) : Result :=
  .next (s.writeWithFlag x (s.reg x >>> 1) (shrOut (s.reg x)))

/-- SUBN Vx,Vy (R111): `Vy` minus `Vx`, the result to `Vx`. -/
def execSubn (x y : Reg) (s : State) : Result :=
  .next (s.writeWithFlag x (s.reg y - s.reg x) (minuendGreater (s.reg y) (s.reg x)))

/-- SHL Vx (R112): the field `y` is not used (R57). -/
def execShl (x _y : Reg) (s : State) : Result :=
  .next (s.writeWithFlag x (s.reg x <<< 1) (shlOut (s.reg x)))

/-- The effect of RND once the random source has answered `r` (R113): `V[x] <- r & kk`, one draw made. -/
def State.takeRandom (s : State) (r : Byte) (x : Reg) (kk : Byte) : State := s.countDraw.setReg x (r &&& kk)

/-- RND Vx,kk (R113): exactly one Draw; its byte is a free value (R157, log 1). -/
def execRnd (x : Reg) (kk : Byte) (s : State) : Result :=
  .next (s.takeRandom (Config.randomByte s.draws) x kk)

end Sys2Proof.Machine
end

