-- ==== Sys2Proof/Syntax.lean ====
section
/-! DEFINITION. The 34 instructions of the opcode map, in its order (30_encoding.md rule R55), with their operand
fields (R51 to R53): `nnn` a 12-bit address, `kk` an 8-bit immediate, `x` and `y` register numbers, `n` a count. -/

namespace Sys2Proof

/-- One constructor per row of spec/opcode_table.json. -/
inductive Instr where
  /-- row 1, `00E0`, CLS -/
  | cls
  /-- row 2, `00EE`, RET -/
  | ret
  /-- row 3, `1nnn`, JP nnn -/
  | jp (nnn : Addr12)
  /-- row 4, `2nnn`, CALL nnn -/
  | call (nnn : Addr12)
  /-- row 5, `3xkk`, SE Vx,kk -/
  | seImm (x : Reg) (kk : Byte)
  /-- row 6, `4xkk`, SNE Vx,kk -/
  | sneImm (x : Reg) (kk : Byte)
  /-- row 7, `5xy0`, SE Vx,Vy -/
  | seReg (x y : Reg)
  /-- row 8, `6xkk`, LD Vx,kk -/
  | ldImm (x : Reg) (kk : Byte)
  /-- row 9, `7xkk`, ADD Vx,kk -/
  | addImm (x : Reg) (kk : Byte)
  /-- row 10, `8xy0`, LD Vx,Vy -/
  | ldReg (x y : Reg)
  /-- row 11, `8xy1`, OR Vx,Vy -/
  | orReg (x y : Reg)
  /-- row 12, `8xy2`, AND Vx,Vy -/
  | andReg (x y : Reg)
  /-- row 13, `8xy3`, XOR Vx,Vy -/
  | xorReg (x y : Reg)
  /-- row 14, `8xy4`, ADD Vx,Vy -/
  | addReg (x y : Reg)
  /-- row 15, `8xy5`, SUB Vx,Vy -/
  | sub (x y : Reg)
  /-- row 16, `8xy6`, SHR Vx; `y` is decoded and not used (R57) -/
  | shr (x y : Reg)
  /-- row 17, `8xy7`, SUBN Vx,Vy -/
  | subn (x y : Reg)
  /-- row 18, `8xyE`, SHL Vx; `y` is decoded and not used (R57) -/
  | shl (x y : Reg)
  /-- row 19, `9xy0`, SNE Vx,Vy -/
  | sneReg (x y : Reg)
  /-- row 20, `Annn`, LD I,nnn -/
  | ldI (nnn : Addr12)
  /-- row 21, `Bnnn`, JP V0,nnn -/
  | jpV0 (nnn : Addr12)
  /-- row 22, `Cxkk`, RND Vx,kk -/
  | rnd (x : Reg) (kk : Byte)
  /-- row 23, `Dxyn`, DRW Vx,Vy,n; `n` is a count, 0 to 15 when well formed -/
  | drw (x y : Reg) (n : Nat)
  /-- row 24, `Ex9E`, SKP Vx -/
  | skp (x : Reg)
  /-- row 25, `ExA1`, SKNP Vx -/
  | sknp (x : Reg)
  /-- row 26, `Fx07`, LD Vx,DT -/
  | ldVxDt (x : Reg)
  /-- row 27, `Fx0A`, LD Vx,K -/
  | ldVxK (x : Reg)
  /-- row 28, `Fx15`, LD DT,Vx -/
  | ldDtVx (x : Reg)
  /-- row 29, `Fx18`, LD ST,Vx -/
  | ldStVx (x : Reg)
  /-- row 30, `Fx1E`, ADD I,Vx -/
  | addI (x : Reg)
  /-- row 31, `Fx29`, LD F,Vx -/
  | ldF (x : Reg)
  /-- row 32, `Fx33`, LD B,Vx -/
  | ldB (x : Reg)
  /-- row 33, `Fx55`, LD [I],Vx -/
  | dump (x : Reg)
  /-- row 34, `Fx65`, LD Vx,[I] -/
  | load (x : Reg)
deriving DecidableEq, Repr

end Sys2Proof
end

