-- ==== Sys2Proof/WellFormed.lean ====
section
/-! DEFINITION. Which terms of `Instr` are instructions. Register numbers, immediates and addresses are bounded by
their types: "all sixteen legal in every instruction that has the field; no instruction forbids `x = y`, `x = 0xF`
or `y = 0xF`" (30_encoding.md rule R53). The one operand held as a plain number is the sprite height. -/

namespace Sys2Proof

/-- The sprite height of DRW fits its 4-bit field: "`n` is a count 0 to 15" (R53). Every other term is well formed. -/
def Instr.wf : Instr → Bool
  | .drw _ _ n => decide (n < 16)
  | .cls | .ret | .jp _ | .call _ | .seImm _ _ | .sneImm _ _ | .seReg _ _ | .ldImm _ _ | .addImm _ _
  | .ldReg _ _ | .orReg _ _ | .andReg _ _ | .xorReg _ _ | .addReg _ _ | .sub _ _ | .shr _ _ | .subn _ _
  | .shl _ _ | .sneReg _ _ | .ldI _ | .jpV0 _ | .rnd _ _ | .skp _ | .sknp _ | .ldVxDt _ | .ldVxK _
  | .ldDtVx _ | .ldStVx _ | .addI _ | .ldF _ | .ldB _ | .dump _ | .load _ => true

end Sys2Proof
end

