-- ==== Sys2Proof/Decode.lean ====
section
/-! DEFINITION. Decoding and encoding (30_encoding.md rules R50 to R58). `decodeWord` is the pseudocode of R54, field
by field; `encode` and `Instr.row` are written from the patterns, matches and masks of R55, so that the two readings
check each other. -/

namespace Sys2Proof

/-- Why bytes are no instruction. -/
inductive DecodeFailure where
  /-- the word selects no row of the opcode map (R56); the Step that fetched it raises UnsupportedInstruction(w) -/
  | unsupported (w : Word)
  /-- fewer than two bytes: an instruction is one 16-bit word (R50) -/
  | truncated
deriving DecidableEq, Repr

/-! ### Fields (R51) -/

/-- `op`, `w[15:12]`, the leading nibble. -/
def fieldOp (w : Word) : BitVec 4 := w.extractLsb' 12 4

/-- `nnn`, `w[11:0]`. -/
def fieldNnn (w : Word) : Addr12 := w.extractLsb' 0 12

/-- `x`, `w[11:8]`. -/
def fieldX (w : Word) : Reg := (w.extractLsb' 8 4).toFin

/-- `y`, `w[7:4]`. -/
def fieldY (w : Word) : Reg := (w.extractLsb' 4 4).toFin

/-- `kk`, `w[7:0]`. -/
def fieldKk (w : Word) : Byte := w.extractLsb' 0 8

/-- `w[3:0]` as bits: the secondary opcode of format XY. -/
def fieldSub4 (w : Word) : BitVec 4 := w.extractLsb' 0 4

/-- `n`, `w[3:0]` as a count (R53). -/
def fieldN (w : Word) : Nat := (w.extractLsb' 0 4).toNat

/-! ### The decoder (R54) -/

/-- Group 0x0: two literal words, everything else unsupported. -/
def decode0 (w : Word) : Except DecodeFailure Instr :=
  if w = 0x00E0#16 then .ok .cls
  else if w = 0x00EE#16 then .ok .ret
  else .error (.unsupported w)

/-- Group 0x8, by the bottom 4 bits. -/
def decode8 (w : Word) : Except DecodeFailure Instr :=
  match fieldSub4 w with
  | 0x0#4 => .ok (.ldReg (fieldX w) (fieldY w))
  | 0x1#4 => .ok (.orReg (fieldX w) (fieldY w))
  | 0x2#4 => .ok (.andReg (fieldX w) (fieldY w))
  | 0x3#4 => .ok (.xorReg (fieldX w) (fieldY w))
  | 0x4#4 => .ok (.addReg (fieldX w) (fieldY w))
  | 0x5#4 => .ok (.sub (fieldX w) (fieldY w))
  | 0x6#4 => .ok (.shr (fieldX w) (fieldY w))
  | 0x7#4 => .ok (.subn (fieldX w) (fieldY w))
  | 0xE#4 => .ok (.shl (fieldX w) (fieldY w))
  | _ => .error (.unsupported w)

/-- Group 0xE, by the bottom 8 bits. -/
def decodeE (w : Word) : Except DecodeFailure Instr :=
  match fieldKk w with
  | 0x9E#8 => .ok (.skp (fieldX w))
  | 0xA1#8 => .ok (.sknp (fieldX w))
  | _ => .error (.unsupported w)

/-- Group 0xF, by the bottom 8 bits. -/
def decodeF (w : Word) : Except DecodeFailure Instr :=
  match fieldKk w with
  | 0x07#8 => .ok (.ldVxDt (fieldX w))
  | 0x0A#8 => .ok (.ldVxK (fieldX w))
  | 0x15#8 => .ok (.ldDtVx (fieldX w))
  | 0x18#8 => .ok (.ldStVx (fieldX w))
  | 0x1E#8 => .ok (.addI (fieldX w))
  | 0x29#8 => .ok (.ldF (fieldX w))
  | 0x33#8 => .ok (.ldB (fieldX w))
  | 0x55#8 => .ok (.dump (fieldX w))
  | 0x65#8 => .ok (.load (fieldX w))
  | _ => .error (.unsupported w)

/-- Groups 0x5 and 0x9: the low nibble must be 0 (R58, the spec's decision D3). -/
def decodeLowNibbleZero (w : Word) (i : Instr) : Except DecodeFailure Instr :=
  if fieldSub4 w = 0x0#4 then .ok i else .error (.unsupported w)

/-- R54: total on the 65536 words; "every 16-bit input maps to exactly one outcome". -/
def decodeWord (w : Word) : Except DecodeFailure Instr :=
  match fieldOp w with
  | 0x0#4 => decode0 w
  | 0x1#4 => .ok (.jp (fieldNnn w))
  | 0x2#4 => .ok (.call (fieldNnn w))
  | 0x3#4 => .ok (.seImm (fieldX w) (fieldKk w))
  | 0x4#4 => .ok (.sneImm (fieldX w) (fieldKk w))
  | 0x5#4 => decodeLowNibbleZero w (.seReg (fieldX w) (fieldY w))
  | 0x6#4 => .ok (.ldImm (fieldX w) (fieldKk w))
  | 0x7#4 => .ok (.addImm (fieldX w) (fieldKk w))
  | 0x8#4 => decode8 w
  | 0x9#4 => decodeLowNibbleZero w (.sneReg (fieldX w) (fieldY w))
  | 0xA#4 => .ok (.ldI (fieldNnn w))
  | 0xB#4 => .ok (.jpV0 (fieldNnn w))
  | 0xC#4 => .ok (.rnd (fieldX w) (fieldKk w))
  | 0xD#4 => .ok (.drw (fieldX w) (fieldY w) (fieldN w))
  | 0xE#4 => decodeE w
  | _ => decodeF w   -- 0xF, the one nibble left

/-- Two bytes as one word, the byte at the lower address the more significant half (20_memory.md rule R33). -/
def joinBytes (hi lo : Byte) : Word := hi ++ lo

/-- The byte of a word that lies at the lower address (R33). -/
def highByte (w : Word) : Byte := w.extractLsb' 8 8

/-- The byte of a word that lies at the higher address (R33). -/
def lowByte (w : Word) : Byte := w.extractLsb' 0 8

/-- One instruction off the front of a byte sequence, as memory stores it (R50, R33). -/
def decode : List Byte → Except DecodeFailure (Instr × List Byte)
  | hi :: lo :: rest =>
    match decodeWord (joinBytes hi lo) with
    | .ok i => .ok (i, rest)
    | .error e => .error e
  | _ => .error .truncated

/-- The instruction the decoder reads from `nbits` bits numbered as spec/opcode_table.json numbers them (one 16-bit
word, bit 0 least significant), laid out in memory order and given to `decode`. -/
def decodeTableWord (nbits w : Nat) : Option Instr :=
  let word : Word := BitVec.ofNat 16 (w % 2 ^ nbits)
  match decode [highByte word, lowByte word] with
  | .ok (i, _) => some i
  | .error _ => none

/-! ### The encoder (R52, R55) -/

/-- A register number in its 4-bit field. -/
def regBits (r : Reg) : BitVec 4 := BitVec.ofFin r

/-- Format A: `op`, `nnn`. -/
def formatA (op : BitVec 4) (nnn : Addr12) : Word := op ++ nnn

/-- Format XK: `op`, `x`, `kk`. -/
def formatXK (op : BitVec 4) (x : Reg) (kk : Byte) : Word := op ++ regBits x ++ kk

/-- Format XY, and XYN with `n` in the last field: `op`, `x`, `y`, `sub4`. -/
def formatXY (op : BitVec 4) (x y : Reg) (sub4 : BitVec 4) : Word := op ++ regBits x ++ regBits y ++ sub4

/-- Format X: `op`, `x`, `sub8`. -/
def formatX (op : BitVec 4) (x : Reg) (sub8 : Byte) : Word := op ++ regBits x ++ sub8

/-- The word of an instruction, by its row of R55. -/
def encode : Instr → Word
  | .cls => 0x00E0#16
  | .ret => 0x00EE#16
  | .jp nnn => formatA 0x1#4 nnn
  | .call nnn => formatA 0x2#4 nnn
  | .seImm x kk => formatXK 0x3#4 x kk
  | .sneImm x kk => formatXK 0x4#4 x kk
  | .seReg x y => formatXY 0x5#4 x y 0x0#4
  | .ldImm x kk => formatXK 0x6#4 x kk
  | .addImm x kk => formatXK 0x7#4 x kk
  | .ldReg x y => formatXY 0x8#4 x y 0x0#4
  | .orReg x y => formatXY 0x8#4 x y 0x1#4
  | .andReg x y => formatXY 0x8#4 x y 0x2#4
  | .xorReg x y => formatXY 0x8#4 x y 0x3#4
  | .addReg x y => formatXY 0x8#4 x y 0x4#4
  | .sub x y => formatXY 0x8#4 x y 0x5#4
  | .shr x y => formatXY 0x8#4 x y 0x6#4
  | .subn x y => formatXY 0x8#4 x y 0x7#4
  | .shl x y => formatXY 0x8#4 x y 0xE#4
  | .sneReg x y => formatXY 0x9#4 x y 0x0#4
  | .ldI nnn => formatA 0xA#4 nnn
  | .jpV0 nnn => formatA 0xB#4 nnn
  | .rnd x kk => formatXK 0xC#4 x kk
  | .drw x y n => formatXY 0xD#4 x y (BitVec.ofNat 4 n)
  | .skp x => formatX 0xE#4 x 0x9E#8
  | .sknp x => formatX 0xE#4 x 0xA1#8
  | .ldVxDt x => formatX 0xF#4 x 0x07#8
  | .ldVxK x => formatX 0xF#4 x 0x0A#8
  | .ldDtVx x => formatX 0xF#4 x 0x15#8
  | .ldStVx x => formatX 0xF#4 x 0x18#8
  | .addI x => formatX 0xF#4 x 0x1E#8
  | .ldF x => formatX 0xF#4 x 0x29#8
  | .ldB x => formatX 0xF#4 x 0x33#8
  | .dump x => formatX 0xF#4 x 0x55#8
  | .load x => formatX 0xF#4 x 0x65#8

/-- The bytes of an instruction in memory order (R33, R50). -/
def encodeBytes (i : Instr) : List Byte := [highByte (encode i), lowByte (encode i)]

/-! ### The opcode map as rows (R55) -/

/-- A row of the opcode map: "a word `w` selects the row exactly when `w & mask = match`" (R55). -/
structure OpcodeRow where
  value : Word
  mask  : Word
deriving DecidableEq, Repr

/-- The word selects the row (R55). -/
def OpcodeRow.selects (r : OpcodeRow) (w : Word) : Bool := (w &&& r.mask) == r.value

/-- Rows 1 to 9 of R55. -/
def opcodeRowsA : List OpcodeRow :=
  [⟨0x00E0, 0xFFFF⟩, ⟨0x00EE, 0xFFFF⟩, ⟨0x1000, 0xF000⟩, ⟨0x2000, 0xF000⟩, ⟨0x3000, 0xF000⟩,
   ⟨0x4000, 0xF000⟩, ⟨0x5000, 0xF00F⟩, ⟨0x6000, 0xF000⟩, ⟨0x7000, 0xF000⟩]

/-- Rows 10 to 23 of R55. -/
def opcodeRowsB : List OpcodeRow :=
  [⟨0x8000, 0xF00F⟩, ⟨0x8001, 0xF00F⟩, ⟨0x8002, 0xF00F⟩, ⟨0x8003, 0xF00F⟩, ⟨0x8004, 0xF00F⟩,
   ⟨0x8005, 0xF00F⟩, ⟨0x8006, 0xF00F⟩, ⟨0x8007, 0xF00F⟩, ⟨0x800E, 0xF00F⟩, ⟨0x9000, 0xF00F⟩,
   ⟨0xA000, 0xF000⟩, ⟨0xB000, 0xF000⟩, ⟨0xC000, 0xF000⟩, ⟨0xD000, 0xF000⟩]

/-- Rows 24 to 34 of R55. -/
def opcodeRowsC : List OpcodeRow :=
  [⟨0xE09E, 0xF0FF⟩, ⟨0xE0A1, 0xF0FF⟩, ⟨0xF007, 0xF0FF⟩, ⟨0xF00A, 0xF0FF⟩, ⟨0xF015, 0xF0FF⟩,
   ⟨0xF018, 0xF0FF⟩, ⟨0xF01E, 0xF0FF⟩, ⟨0xF029, 0xF0FF⟩, ⟨0xF033, 0xF0FF⟩, ⟨0xF055, 0xF0FF⟩,
   ⟨0xF065, 0xF0FF⟩]

/-- The 34 rows of R55, in its order. -/
def opcodeRows : List OpcodeRow := opcodeRowsA ++ opcodeRowsB ++ opcodeRowsC

/-- The number of an instruction's row, counted from 0 in the order of R55. -/
def Instr.rowIndex : Instr → Nat
  | .cls => 0 | .ret => 1 | .jp _ => 2 | .call _ => 3 | .seImm _ _ => 4 | .sneImm _ _ => 5 | .seReg _ _ => 6
  | .ldImm _ _ => 7 | .addImm _ _ => 8 | .ldReg _ _ => 9 | .orReg _ _ => 10 | .andReg _ _ => 11
  | .xorReg _ _ => 12 | .addReg _ _ => 13 | .sub _ _ => 14 | .shr _ _ => 15 | .subn _ _ => 16 | .shl _ _ => 17
  | .sneReg _ _ => 18 | .ldI _ => 19 | .jpV0 _ => 20 | .rnd _ _ => 21 | .drw _ _ _ => 22 | .skp _ => 23
  | .sknp _ => 24 | .ldVxDt _ => 25 | .ldVxK _ => 26 | .ldDtVx _ => 27 | .ldStVx _ => 28 | .addI _ => 29
  | .ldF _ => 30 | .ldB _ => 31 | .dump _ => 32 | .load _ => 33

/-- The row of the opcode map an instruction belongs to (R55). -/
def Instr.row (i : Instr) : OpcodeRow := opcodeRows.getD i.rowIndex ⟨0, 0⟩

end Sys2Proof
end

