-- ==== Sys2Proof/Machine/Fetch.lean ====
section
/-! DEFINITION. Fetching and decoding the next instruction (40_step_cycle.md R73, R75; 20_memory.md R33). -/

namespace Sys2Proof.Machine

/-- `MemRead(pc, 2)`: the byte at `pc`, then the byte at `pc + 1`, each with its bounds check, big-endian (R33, R73);
`pc` may be odd (R35). -/
def State.fetch (s : State) : Except Fault Word :=
  match s.memRead s.pc.toNat with
  | .error f => .error f
  | .ok hi =>
    match s.memRead (s.pc.toNat + 1) with
    | .error f => .error f
    | .ok lo => .ok (joinBytes hi lo)

/-- The instruction the next Step executes, or the fault it raises before executing: OutOfBounds of the fetch first,
then UnsupportedInstruction(w) (R73, R75, R79). -/
def State.nextInstr (s : State) : Except Fault Instr :=
  match s.fetch with
  | .error f => .error f
  | .ok w =>
    match decodeWord w with
    | .ok i => .ok i
    | .error _ => .error (.unsupportedInstruction w)

/-- The state with the two bytes of a word stored at `pc` and `pc + 1`, and Running, so that the next Step fetches it. -/
def State.placeWord (s : State) (w : Word) : State :=
  { s with
    mem := Memory.write (Memory.write s.mem s.pc.toNat (highByte w)) (s.pc.toNat + 1) (lowByte w)
    wait := none
    fault := none }

end Sys2Proof.Machine
end

