-- ==== Sys2Proof/Machine/Step.lean ====
section
/-! DEFINITION. The Step transaction (40_step_cycle.md rule R70). -/

namespace Sys2Proof.Machine

/-- One Step, its checks in the order of R79: the fault latch (R71), the wait marker (R72: no state element changes),
the fetch and the decode (R73, R75), and then the instruction on the state with `pc` advanced (R74, R76). -/
def step (s : State) : Host.Outcome State Fault Refusal :=
  match s.fault with
  | some f => raise f
  | none =>
    match s.wait with
    | some _ => .next s
    | none =>
      match s.nextInstr with
      | .error f => raise f
      | .ok i => exec i s.advance

/-- The state with the instruction of `nbits` bits, numbered as spec/opcode_table.json numbers them, stored at `pc` in
memory order. Where the fault latch or the wait marker is set the next Step would not fetch, so both are cleared. Needs
`pc ≤ 4094`, where a fetch succeeds (R73). It stands for the transaction Load (log 7). -/
def State.withFetchWord (s : State) (nbits w : Nat) : State :=
  s.placeWord (BitVec.ofNat 16 (w % 2 ^ nbits))

end Sys2Proof.Machine
end

