-- ==== Sys2Proof/Machine/Transactions.lean ====
section
/-! DEFINITION. The host interface: the seven transactions, what each does and answers, and the fault latch around
them (46_host_interface.md R150 to R161; 60_exceptions.md R175, R179; 40_step_cycle.md R77). -/

namespace Sys2Proof.Machine

/-- What the host may ask (R150). -/
inductive Transaction where
  | reset
  | load (bytes : List Byte)
  | step
  | tick
  | keyDown (k : Nat)
  | keyUp (k : Nat)
  | readDisplay
deriving DecidableEq, Repr

/-- What comes back (R150). -/
inductive Answer where
  /-- the transaction is done -/
  | done
  /-- Step: one instruction was executed (R70) -/
  | executed
  /-- Step: nothing happened, the core awaits a key (R70, R72) -/
  | idle
  /-- the run is over (R175), or was over before (R161) -/
  | fault (f : Fault)
  /-- Load: an image too long (R152) -/
  | refused (r : Refusal)
  /-- ReadDisplay: the 32 row values (R156) -/
  | rows (d : Vector Row 32)
  /-- ReadDisplay on a faulted core: rows of which nothing may be said (R161; log 5) -/
  | unspecifiedRows
deriving DecidableEq, Repr

/-- Reset (R151): every element to its reset value. The random source is not reset (R157, D26), so `draws` stays. -/
def State.doReset (s : State) : State := { State.reset with draws := s.draws }

/-- Load (R152): Reset, then the bytes copied from 0x200 up. -/
def State.doLoad (bytes : List Byte) (s : State) : Result :=
  if bytes.length ≤ Config.maxImage then
    .next (s.doReset.setMem (Memory.copy bytes Config.progBase s.doReset.mem))
  else .refused .imageTooLong

/-- Tick (R153): both timers counted down, each held at 0; nothing else changes. -/
def State.doTick (s : State) : State := (s.setDt (countDown s.dt)).setSt (countDown s.st)

/-- The wake-up of KeyDown: `if wait = Some x then V[x] <- zext_8(k); wait <- None` (R154). -/
def State.wake (s : State) (k : Reg) : State :=
  match s.wait with
  | none => s
  | some x => (s.setReg x (BitVec.ofNat 8 k.val)).setWait none

/-- KeyDown(k) (R154). -/
def State.doKeyDown (k : Nat) (s : State) : Except Fault State :=
  if h : k < 16 then .ok ((s.setKey ⟨k, h⟩ true).wake ⟨k, h⟩) else .error (.invalidKey k)

/-- KeyUp(k) (R155): `wait` is neither read nor written. -/
def State.doKeyUp (k : Nat) (s : State) : Except Fault State :=
  if h : k < 16 then .ok (s.setKey ⟨k, h⟩ false) else .error (.invalidKey k)

/-- What a transaction that changes the state or raises answers, with the latch of fault entry (R175). -/
def settle (s : State) (ok : Answer) : Result → Answer × State
  | .next t => (ok, t)
  | .fault f => (.fault f, s.latch f)
  | .refused r => (.refused r, s)

/-- A transaction that a faulted core ignores, answering the latched fault (R161, R179). -/
def unlessFaulted (s : State) (run : Answer × State) : Answer × State :=
  match s.fault with
  | some f => (.fault f, s)
  | none => run

/-- One transaction, atomic: its answer and the state it leaves (R150, R159). -/
def transact (t : Transaction) (s : State) : Answer × State :=
  match t with
  | .reset => (.done, s.doReset)
  | .load bytes => settle s .done (State.doLoad bytes s)
  | .step => unlessFaulted s (settle s (if s.wait.isSome then .idle else .executed) (step s))
  | .tick => unlessFaulted s (.done, s.doTick)
  | .keyDown k => unlessFaulted s (settle s .done (conclude (State.doKeyDown k s)))
  | .keyUp k => unlessFaulted s (settle s .done (conclude (State.doKeyUp k s)))
  | .readDisplay => (match s.fault with | none => .rows s.disp | some _ => .unspecifiedRows, s)

/-- A run: the host's transactions in the order it issues them, with their answers (R78, R159). -/
def runHost : List Transaction → State → List Answer × State
  | [], s => ([], s)
  | t :: ts, s =>
    let r := transact t s
    let rest := runHost ts r.2
    (r.1 :: rest.1, rest.2)

end Sys2Proof.Machine
end

