-- ==== Sys2Proof/Safety.lean ====
section
/-! DEFINITION. The terms claims are stated in: the invariant, the elements of the state, what two states agree on,
and what each instruction writes (10_state.md R10, R25, R28). -/

namespace Sys2Proof.Machine

/-- The digit sprite table is the conventional one (R22, D20): the premise of a claim that rests on its values. -/
def UsesDefaultFont : Prop := Config.font = defaultFont

/-- What every transaction keeps: memory in its canonical form; `pc` at most 0x10FE, "the largest value `pc` can ever
take" (R14); every stack entry a value that `pc` held after a fetch, at most 4096 (R15). -/
def State.Inv (s : State) : Prop :=
  Memory.wf s.mem = true ∧ s.pc.toNat ≤ 0x10FE ∧ ∀ (k : Nat) (h : k < 16), s.stack[k].toNat ≤ 4096

/-- The elements of the state (R10), and the model's own counter of draws. -/
inductive Elem where
  | v | i | pc | stack | sp | mem | dt | st | key | disp | wait | fault | draws
deriving DecidableEq, Repr

/-- Element `e` is in `t` what it is in `s`; memory is compared byte by byte as it is read. -/
def Unchanged (e : Elem) (s t : State) : Prop :=
  match e with
  | .v => ∀ r, t.reg r = s.reg r
  | .i => t.i = s.i
  | .pc => t.pc = s.pc
  | .stack => t.stack = s.stack
  | .sp => t.sp = s.sp
  | .mem => ∀ a, t.byteAt a = s.byteAt a
  | .dt => t.dt = s.dt
  | .st => t.st = s.st
  | .key => t.key = s.key
  | .disp => t.disp = s.disp
  | .wait => t.wait = s.wait
  | .fault => t.fault = s.fault
  | .draws => t.draws = s.draws

/-- Every element outside `es` is unchanged from `s` to `t`. -/
def SameExcept (es : List Elem) (s t : State) : Prop := ∀ e, e ∉ es → Unchanged e s t

/-- Nothing but the general registers in `may` is changed from `s` to `t`. -/
def OnlyRegs (may : Reg → Prop) (s t : State) : Prop :=
  (∀ r, ¬ may r → t.reg r = s.reg r) ∧ SameExcept [.v] s t

/-- The elements an instruction writes, by the "written by" column of R28; a Step's fetch advance of `pc` comes before
the instruction and is not counted. -/
def writes : Instr → List Elem
  | .cls => [.disp]
  | .ret => [.pc, .sp]
  | .call _ => [.pc, .stack, .sp]
  | .jp _ | .jpV0 _ | .seImm _ _ | .sneImm _ _ | .seReg _ _ | .sneReg _ _ | .skp _ | .sknp _ => [.pc]
  | .ldImm _ _ | .addImm _ _ | .ldReg _ _ | .orReg _ _ | .andReg _ _ | .xorReg _ _ | .addReg _ _ | .sub _ _
  | .shr _ _ | .subn _ _ | .shl _ _ | .ldVxDt _ | .load _ => [.v]
  | .rnd _ _ => [.v, .draws]
  | .drw _ _ _ => [.v, .disp]
  | .ldI _ | .addI _ | .ldF _ => [.i]
  | .ldVxK _ => [.wait]
  | .ldDtVx _ => [.dt]
  | .ldStVx _ => [.st]
  | .ldB _ | .dump _ => [.mem]

/-- The general registers an instruction writes, as its named destination or as its flag output (R12, R28). -/
def writesReg : Instr → Reg → Prop
  | .ldImm x _, r | .addImm x _, r | .ldReg x _, r | .orReg x _, r | .andReg x _, r | .xorReg x _, r
  | .rnd x _, r | .ldVxDt x, r => r = x
  | .addReg x _, r | .sub x _, r | .shr x _, r | .subn x _, r | .shl x _, r => r = x ∨ r = regF
  | .drw _ _ _, r => r = regF
  | .load x, r => r ≤ x
  | .cls, _ | .ret, _ | .jp _, _ | .call _, _ | .seImm _ _, _ | .sneImm _ _, _ | .seReg _ _, _ | .sneReg _ _, _
  | .ldI _, _ | .jpV0 _, _ | .skp _, _ | .sknp _, _ | .ldVxK _, _ | .ldDtVx _, _ | .ldStVx _, _ | .addI _, _
  | .ldF _, _ | .ldB _, _ | .dump _, _ => False

/-- The six instructions that write `VF` as a side effect (R12). -/
def writesFlag : Instr → Bool
  | .addReg _ _ | .sub _ _ | .shr _ _ | .subn _ _ | .shl _ _ | .drw _ _ _ => true
  | .cls | .ret | .jp _ | .call _ | .seImm _ _ | .sneImm _ _ | .seReg _ _ | .ldImm _ _ | .addImm _ _
  | .ldReg _ _ | .orReg _ _ | .andReg _ _ | .xorReg _ _ | .sneReg _ _ | .ldI _ | .jpV0 _ | .rnd _ _ | .skp _
  | .sknp _ | .ldVxDt _ | .ldVxK _ | .ldDtVx _ | .ldStVx _ | .addI _ | .ldF _ | .ldB _ | .dump _ | .load _ => false

/-- The addresses an instruction stores to: LD B,Vx three from `I` (R142), LD [I],Vx `x + 1` from `I` (R143). -/
def storesAt (i : Instr) (s : State) (a : Nat) : Prop :=
  match i with
  | .ldB _ => s.dataAddr 0 ≤ a ∧ a < s.dataAddr 3
  | .dump x => s.dataAddr 0 ≤ a ∧ a ≤ s.dataAddr x.val
  | .cls | .ret | .jp _ | .call _ | .seImm _ _ | .sneImm _ _ | .seReg _ _ | .ldImm _ _ | .addImm _ _ | .ldReg _ _
  | .orReg _ _ | .andReg _ _ | .xorReg _ _ | .addReg _ _ | .sub _ _ | .shr _ _ | .subn _ _ | .shl _ _
  | .sneReg _ _ | .ldI _ | .jpV0 _ | .rnd _ _ | .drw _ _ _ | .skp _ | .sknp _ | .ldVxDt _ | .ldVxK _ | .ldDtVx _
  | .ldStVx _ | .addI _ | .ldF _ | .load _ => False

/-- The faults an instruction may raise once fetched and decoded (60_exceptions.md rule R170, "raised by"; R177). -/
def mayRaise : Instr → Fault → Prop
  | .call _, f => f = .stackOverflow
  | .ret, f => f = .stackUnderflow
  | .drw _ _ _, f => ∃ info, f = .outOfBounds info
  | .ldB _, f | .dump _, f | .load _, f => ∃ a, f = .outOfBounds (.mem a)
  | .skp _, f | .sknp _, f => ∃ k, f = .invalidKey k
  | .cls, _ | .jp _, _ | .seImm _ _, _ | .sneImm _ _, _ | .seReg _ _, _ | .ldImm _ _, _ | .addImm _ _, _
  | .ldReg _ _, _ | .orReg _ _, _ | .andReg _ _, _ | .xorReg _ _, _ | .addReg _ _, _ | .sub _ _, _ | .shr _ _, _
  | .subn _ _, _ | .shl _ _, _ | .sneReg _ _, _ | .ldI _, _ | .jpV0 _, _ | .rnd _ _, _ | .ldVxDt _, _
  | .ldVxK _, _ | .ldDtVx _, _ | .ldStVx _, _ | .addI _, _ | .ldF _, _ => False

end Sys2Proof.Machine
end

