-- ==== Sys2Proof/Certificates/Slice0/Obligations.lean ====
section
/-! DEFINITION. The statements for the provers: what the spec's numbered rules say the machine does, over all states
and operands. `exec` works on the state whose `pc` is already past the instruction (40_step_cycle.md rule R74), and
`step` is the whole Step. -/

open Sys2Proof Sys2Proof.Machine

/-! ## Encoding (30_encoding.md) -/

/-- Words written out from the opcode patterns of 30_encoding.md (R55, the spec's decision D2) and its worked example
R62, at least one of each family, and words next to them that are unsupported (95_test_vectors.md 2.1). -/
def Obligations.WrittenOutWordsDecode : Prop :=
  decodeWord 0x3A12 = .ok (.seImm 0xA 0x12) ∧ fieldNnn 0x3A12 = 0xA12 ∧ fieldY 0x3A12 = 0x1 ∧ fieldN 0x3A12 = 2 ∧
  decodeWord 0x00E0 = .ok .cls ∧ decodeWord 0x00EE = .ok .ret ∧ decodeWord 0x2ABC = .ok (.call 0xABC) ∧
  decodeWord 0x8AB7 = .ok (.subn 0xA 0xB) ∧ decodeWord 0x8ABE = .ok (.shl 0xA 0xB) ∧
  decodeWord 0xC10F = .ok (.rnd 1 0x0F) ∧ decodeWord 0xD125 = .ok (.drw 1 2 5) ∧
  decodeWord 0xE1A1 = .ok (.sknp 1) ∧ decodeWord 0xF30A = .ok (.ldVxK 3) ∧ decodeWord 0xF733 = .ok (.ldB 7) ∧
  decodeWord 0x0000 = .error (.unsupported 0x0000) ∧ decodeWord 0x5AB1 = .error (.unsupported 0x5AB1) ∧
  decodeWord 0x8AB8 = .error (.unsupported 0x8AB8) ∧ decodeWord 0xE09F = .error (.unsupported 0xE09F) ∧
  decodeWord 0xF030 = .error (.unsupported 0xF030)

/-- Every well-formed instruction, with every operand at every value its encoding admits, is what the decoder reads
from its word (30_encoding.md R51 to R55). -/
def Obligations.DecodeOfEncodeIsTheInstruction : Prop :=
  ∀ i : Instr, i.wf = true → decodeWord (encode i) = .ok i

/-- Every word that decodes is the word of the well-formed instruction it decodes to: no bit of a supported word is
dropped, the unused `y` of the shifts included (30_encoding.md R54, R57). -/
def Obligations.EncodeOfDecodedWordIsTheWord : Prop :=
  ∀ (w : Word) (i : Instr), decodeWord w = .ok i → i.wf = true ∧ encode i = w

/-- "A word `w` selects the row exactly when `w & mask = match`. The rows are disjoint, so their order does not
matter" (R55): the decoder answers an instruction exactly when some row selects the word, that row is the
instruction's own, no second row selects it, and otherwise it fails with the word. -/
def Obligations.DecoderAgreesWithTheOpcodeMap : Prop :=
  (∀ (w : Word) (i : Instr), decodeWord w = .ok i → i.row ∈ opcodeRows ∧ i.row.selects w = true) ∧
  (∀ w : Word, (∀ r ∈ opcodeRows, r.selects w = false) → decodeWord w = .error (.unsupported w)) ∧
  (∀ (w : Word) (r : OpcodeRow), r ∈ opcodeRows → r.selects w = true → ∃ i, decodeWord w = .ok i ∧ i.row = r) ∧
  (∀ (w : Word) (r q : OpcodeRow), r ∈ opcodeRows → q ∈ opcodeRows → r.selects w = true → q.selects w = true → r = q)

/-- The counts of R63, which the spec derives from R55: 43954 words are supported, 21582 are not. -/
def Obligations.SupportedWordCounts : Prop :=
  ((List.range 65536).filter (fun n => (decodeWord (BitVec.ofNat 16 n)).isOk)).length = 43954 ∧
  ((List.range 65536).filter (fun n => !(decodeWord (BitVec.ofNat 16 n)).isOk)).length = 21582

/-- "`V[y]` is neither read nor written" by SHR and SHL (R57, R110, R112): all sixteen values of `y` give one
instruction, and another value in a register other than `VF` and `Vx` changes nothing else of the result. -/
def Obligations.ShiftsNeitherReadNorWriteVy : Prop :=
  ∀ (s : State) (x y : Reg) (b : Byte), y ≠ x → y ≠ regF →
    (∃ t, exec (.shr x y) s = .next t ∧ (∀ z, exec (.shr x z) s = .next t) ∧ t.reg y = s.reg y ∧
      exec (.shr x y) (s.setReg y b) = .next (t.setReg y b)) ∧
    (∃ t, exec (.shl x y) s = .next t ∧ (∀ z, exec (.shl x z) s = .next t) ∧ t.reg y = s.reg y ∧
      exec (.shl x y) (s.setReg y b) = .next (t.setReg y b))

/-! ## Reset and the invariant -/

/-- R191, "Reset values, complete"; the bytes of `FONT` are the parameter `Config.font` (R22).
-/
def Obligations.ResetValues : Prop :=
  (∀ r, State.reset.reg r = 0) ∧ State.reset.i = 0 ∧ State.reset.pc = 0x200 ∧
  (∀ (k : Nat) (h : k < 16), State.reset.stack[k] = 0) ∧ State.reset.sp.val = 0 ∧
  (∀ (a : Nat) (h : a < 80), State.reset.byteAt a = Config.font[a]) ∧
  (∀ a, 0x50 ≤ a → State.reset.byteAt a = 0) ∧
  State.reset.dt = 0 ∧ State.reset.st = 0 ∧ (∀ (k : Nat) (h : k < 16), State.reset.key[k] = false) ∧
  (∀ (r : Nat) (h : r < 32), State.reset.disp[r] = 0) ∧ State.reset.wait = none ∧ State.reset.fault = none

/-- The invariant holds right after reset. -/
def Obligations.InvariantHoldsAtReset : Prop := State.reset.Inv

/-- "The largest value `pc` can ever take is 0x10FE" (R14, derived there from R86, R87, R92 and R74), with the saved
return addresses and the canonical form of memory that carry it: a Step keeps them, from every state that meets them. -/
def Obligations.StepKeepsTheInvariant : Prop :=
  ∀ s t : State, s.Inv → step s = .next t → t.Inv

/-- Every transaction of the host keeps the invariant, a faulting or a refused one too: that a faulting one leaves the
other elements as they were is the model's choice (log 4). -/
def Obligations.TransactionsKeepTheInvariant : Prop :=
  ∀ (tr : Transaction) (s : State), s.Inv → (transact tr s).2.Inv

/-! ## The Step cycle (40_step_cycle.md) -/

/-- When the two bytes at `pc` decode to `i`, a Step of a running core is `exec i` on the state with `pc` advanced by 2
and nothing else changed: "After a successful fetch and before decode and execute, `pc <- pc + 2`" (R74). -/
def Obligations.StepRunsTheDecodedInstruction : Prop :=
  ∀ (s : State) (i : Instr), s.fault = none → s.wait = none → s.pc.toNat ≤ 4094 →
    decodeWord (joinBytes (s.byteAt s.pc.toNat) (s.byteAt (s.pc.toNat + 1))) = .ok i →
    step s = exec i s.advance ∧ s.advance.pc.toNat = s.pc.toNat + 2 ∧ SameExcept [.pc] s s.advance

/-- The fetch (R73): it succeeds exactly when `pc ≤ 4094`, odd or even, high byte first; at 4095 the second byte is out
of bounds, from 4096 on the first. A Step of a running core raises what its fetch raises. -/
def Obligations.FetchSucceedsExactlyUpTo4094 : Prop :=
  ∀ s : State, s.fault = none → s.wait = none →
    (s.pc.toNat ≤ 4094 → s.fetch = .ok (joinBytes (s.byteAt s.pc.toNat) (s.byteAt (s.pc.toNat + 1)))) ∧
    (s.pc.toNat = 4095 → step s = .fault (.outOfBounds (.mem 4096))) ∧
    (4096 ≤ s.pc.toNat → step s = .fault (.outOfBounds (.mem s.pc.toNat)))

/-- UnsupportedInstruction(w) (R171): a Step whose fetched word selects no row of the opcode map raises it with the
word, and no instruction raises it for any operand value. -/
def Obligations.UnsupportedWordsFault : Prop :=
  (∀ (s : State) (w : Word), s.fault = none → s.wait = none → s.fetch = .ok w →
    (∀ r ∈ opcodeRows, r.selects w = false) → step s = .fault (.unsupportedInstruction w)) ∧
  (∀ (i : Instr) (s : State) (w : Word), exec i s ≠ .fault (.unsupportedInstruction w))

/-- "Any number of Steps in this state leave the state exactly as it was" (R72). -/
def Obligations.StepsWhileAwaitingAreNoOps : Prop :=
  ∀ (s : State) (x : Reg) (n : Nat), s.fault = none → s.wait = some x →
    Sys2Proof.core.run n s = .next s ∧ runHost (List.replicate n .step) s = (List.replicate n .idle, s)

/-- "`JP` to its own address is the customary halt: the state is then unchanged by every further Step" (R86). -/
def Obligations.SelfJumpChangesNothing : Prop :=
  ∀ (s : State) (nnn : Addr12) (n : Nat), s.fault = none → s.wait = none → s.fetch = .ok (encode (.jp nnn)) →
    s.pc.toNat = nnn.toNat → Sys2Proof.core.run n s = .next s

/-- A byte stored by LD [I],Vx is seen by the very next fetch, at whatever `pc` within the stored bytes (20_memory.md
rule R42): "Self-modifying code therefore works and needs no fence, flush or delay". -/
def Obligations.StoresAreSeenByTheNextFetch : Prop :=
  ∀ (s t : State) (x k : Reg), exec (.dump x) s = .next t → k ≤ x → t.pc.toNat = s.dataAddr k.val →
    s.dataAddr k.val ≤ 4094 →
    ∃ lo, t.fetch = .ok (joinBytes (s.reg k) lo) ∧
      (∀ q : Reg, q ≤ x → q.val = k.val + 1 → lo = s.reg q)

/-- A Step answers a next state or a fault; no state is refused. -/
def Obligations.NoStepIsRefused : Prop :=
  ∀ (s : State) (r : Refusal), step s ≠ .refused r

/-! ## Whole-machine rules -/

/-- The table of R28, a summary the spec derives from its instruction rules: an element that it does not name as
written by an instruction is untouched by it; of the registers only those named, of memory only the bytes stored. -/
def Obligations.InstructionsTouchOnlyWhatTheyWrite : Prop :=
  ∀ (i : Instr) (s t : State), exec i s = .next t →
    SameExcept (writes i) s t ∧ (∀ r, ¬ writesReg i r → t.reg r = s.reg r) ∧
    (∀ a, ¬ storesAt i s a → t.byteAt a = s.byteAt a)

/-- `VF` (R12): the six flag-writing instructions write it every time, to 0 or to 1, also when it is their destination;
every other instruction leaves it alone unless it is a named destination. -/
def Obligations.FlagWritersAlwaysWriteZeroOrOne : Prop :=
  ∀ (i : Instr) (s t : State), exec i s = .next t →
    (writesFlag i = true → t.reg regF = 0 ∨ t.reg regF = 1) ∧
    (writesFlag i = false → ¬ writesReg i regF → t.reg regF = s.reg regF)

/-- Nothing but an event of the host changes a key latch: "no instruction writes a key latch" (R20). -/
def Obligations.NoStepWritesAKeyLatch : Prop :=
  ∀ s t : State, step s = .next t → t.key = s.key

/-- Every instruction "has a single cause it can raise" (60_exceptions.md rule R177), and no cause but those the table
of R170 gives it. -/
def Obligations.InstructionsRaiseOnlyTheirOwnCause : Prop :=
  ∀ (i : Instr) (s : State) (f : Fault), exec i s = .fault f → mayRaise i f

/-- No instruction reads `st` (R19): two states that differ in `st` alone run alike, and differ at most in `st` after. -/
def Obligations.NoInstructionReadsTheSoundTimer : Prop :=
  ∀ (i : Instr) (s : State) (b : Byte),
    (∀ t, exec i s = .next t → ∃ u, exec i (s.setSt b) = .next u ∧ u.setSt 0 = t.setSt 0) ∧
    (∀ f, exec i s = .fault f → exec i (s.setSt b) = .fault f)

/-! ## Control transfer (41_flow.md) -/

/-- JP nnn (R86) and JP V0,nnn (R92): never a fault, the whole 12-bit address, the sum not reduced. -/
def Obligations.JumpsSetPc : Prop :=
  ∀ (s : State) (nnn : Addr12),
    (∃ t, exec (.jp nnn) s = .next t ∧ t.pc.toNat = nnn.toNat ∧ SameExcept [.pc] s t) ∧
    (∃ t, exec (.jpV0 nnn) s = .next t ∧ t.pc.toNat = nnn.toNat + (s.reg 0).toNat ∧ SameExcept [.pc] s t)

/-- CALL nnn (R87): with fewer than sixteen calls outstanding it saves the advanced `pc` and jumps; with sixteen it is a
StackOverflow. -/
def Obligations.CallPushesAndJumps : Prop :=
  ∀ (s : State) (nnn : Addr12),
    (∀ h : s.sp.val < 16, ∃ t, exec (.call nnn) s = .next t ∧ t.stack[s.sp.val] = s.pc ∧
      (∀ (k : Nat) (hk : k < 16), k ≠ s.sp.val → t.stack[k] = s.stack[k]) ∧
      t.sp.val = s.sp.val + 1 ∧ t.pc.toNat = nnn.toNat ∧ SameExcept [.pc, .stack, .sp] s t) ∧
    (s.sp.val = 16 → exec (.call nnn) s = .fault .stackOverflow)

/-- RET (R85): with a call outstanding it restores the newest saved `pc` and erases nothing; with none it is a
StackUnderflow (the spec's decision D7). -/
def Obligations.ReturnPopsTheNewestAddress : Prop :=
  ∀ s : State,
    (∀ h : 0 < s.sp.val, ∃ t, exec .ret s = .next t ∧
      t.pc = s.stack[s.sp.val - 1]'(by have := s.sp.isLt; omega) ∧
      t.sp.val + 1 = s.sp.val ∧ SameExcept [.pc, .sp] s t) ∧
    (s.sp.val = 0 → exec .ret s = .fault .stackUnderflow)

/-- "A `Call` followed immediately by `Return` restores the exact prior program counter and decrements the stack pointer
back to its pre-call value" (R85): whatever `pc` the RET is fetched from, and nothing but the stale stack entry differs. -/
def Obligations.CallThenReturnRestoresPc : Prop :=
  ∀ (s t : State) (nnn : Addr12) (w : Word), exec (.call nnn) s = .next t →
    ∃ u, exec .ret (t.setPc w) = .next u ∧ SameExcept [.stack] s u ∧
      (∀ (k : Nat) (h : k < 16), k ≠ s.sp.val → u.stack[k] = s.stack[k])

/-- SE and SNE, against an immediate and against a register (R88 to R91): 2 more on `pc` exactly when the condition
holds. The premise is the invariant's bound on `pc` (R14), under which the sum does not wrap. -/
def Obligations.SkipsAdvancePcWhenTheirConditionHolds : Prop :=
  ∀ (s : State) (x y : Reg) (kk : Byte), s.pc.toNat ≤ 0x10FE →
    (∃ t, exec (.seImm x kk) s = .next t ∧ SameExcept [.pc] s t ∧
      t.pc.toNat = if s.reg x = kk then s.pc.toNat + 2 else s.pc.toNat) ∧
    (∃ t, exec (.sneImm x kk) s = .next t ∧ SameExcept [.pc] s t ∧
      t.pc.toNat = if s.reg x ≠ kk then s.pc.toNat + 2 else s.pc.toNat) ∧
    (∃ t, exec (.seReg x y) s = .next t ∧ SameExcept [.pc] s t ∧
      t.pc.toNat = if s.reg x = s.reg y then s.pc.toNat + 2 else s.pc.toNat) ∧
    (∃ t, exec (.sneReg x y) s = .next t ∧ SameExcept [.pc] s t ∧
      t.pc.toNat = if s.reg x ≠ s.reg y then s.pc.toNat + 2 else s.pc.toNat)

/-! ## Loads and arithmetic (42_load_alu.md) -/

/-- LD Vx,kk (R100), ADD Vx,kk (R101), LD Vx,Vy (R102): the destination alone changes, `VF` only as that. -/
def Obligations.LoadsAndAddImmediateWriteVx : Prop :=
  ∀ (s : State) (x y : Reg) (kk : Byte),
    (∃ t, exec (.ldImm x kk) s = .next t ∧ t.reg x = kk ∧ OnlyRegs (· = x) s t) ∧
    (∃ t, exec (.addImm x kk) s = .next t ∧ (t.reg x).toNat = ((s.reg x).toNat + kk.toNat) % 256 ∧
      OnlyRegs (· = x) s t) ∧
    (∃ t, exec (.ldReg x y) s = .next t ∧ t.reg x = s.reg y ∧ OnlyRegs (· = x) s t)

/-- OR, AND, XOR (R105 to R107), bit by bit; `VF` is not reset. -/
def Obligations.LogicCombinesBitByBit : Prop :=
  ∀ (s : State) (x y : Reg),
    (∃ t, exec (.orReg x y) s = .next t ∧
      (∀ k, (t.reg x).getLsbD k = ((s.reg x).getLsbD k || (s.reg y).getLsbD k)) ∧ OnlyRegs (· = x) s t) ∧
    (∃ t, exec (.andReg x y) s = .next t ∧
      (∀ k, (t.reg x).getLsbD k = ((s.reg x).getLsbD k && (s.reg y).getLsbD k)) ∧ OnlyRegs (· = x) s t) ∧
    (∃ t, exec (.xorReg x y) s = .next t ∧
      (∀ k, (t.reg x).getLsbD k = ((s.reg x).getLsbD k ^^ (s.reg y).getLsbD k)) ∧ OnlyRegs (· = x) s t)

/-- ADD Vx,Vy (R108): "sets the flag to 1 iff `a+b > 255`, and stores `(a+b) mod 256`", from the operands as they were,
the flag last: with `x = 0xF` the flag stays (R104, the spec's decision D11). -/
def Obligations.AddSetsSumAndCarry : Prop :=
  ∀ (s : State) (x y : Reg), ∃ t, exec (.addReg x y) s = .next t ∧
    (x ≠ regF → (t.reg x).toNat = ((s.reg x).toNat + (s.reg y).toNat) % 256) ∧
    (t.reg regF).toNat = (if (s.reg x).toNat + (s.reg y).toNat > 255 then 1 else 0) ∧
    OnlyRegs (fun r => r = x ∨ r = regF) s t

/-- SUB and SUBN (R109, R111): the difference modulo 256, the flag "minuend strictly greater", so 0 for equal operands;
the flag last (R104, D11). -/
def Obligations.SubtractsSetDifferenceAndStrictFlag : Prop :=
  ∀ (s : State) (x y : Reg),
    (∃ t, exec (.sub x y) s = .next t ∧
      (x ≠ regF → (t.reg x).toNat = ((s.reg x).toNat + 256 - (s.reg y).toNat) % 256) ∧
      (t.reg regF).toNat = (if (s.reg x).toNat > (s.reg y).toNat then 1 else 0) ∧
      OnlyRegs (fun r => r = x ∨ r = regF) s t) ∧
    (∃ t, exec (.subn x y) s = .next t ∧
      (x ≠ regF → (t.reg x).toNat = ((s.reg y).toNat + 256 - (s.reg x).toNat) % 256) ∧
      (t.reg regF).toNat = (if (s.reg y).toNat > (s.reg x).toNat then 1 else 0) ∧
      OnlyRegs (fun r => r = x ∨ r = regF) s t)

/-- SHR and SHL (R110, R112): one bit, logical, the flag the bit shifted out of the old operand, last (R104, D11). -/
def Obligations.ShiftsHalveAndDoubleWithTheBitShiftedOut : Prop :=
  ∀ (s : State) (x y : Reg),
    (∃ t, exec (.shr x y) s = .next t ∧ (x ≠ regF → (t.reg x).toNat = (s.reg x).toNat / 2) ∧
      (t.reg regF).toNat = (s.reg x).toNat % 2 ∧ OnlyRegs (fun r => r = x ∨ r = regF) s t) ∧
    (∃ t, exec (.shl x y) s = .next t ∧ (x ≠ regF → (t.reg x).toNat = 2 * (s.reg x).toNat % 256) ∧
      (t.reg regF).toNat = (s.reg x).toNat / 128 ∧ OnlyRegs (fun r => r = x ∨ r = regF) s t)

/-- RND Vx,kk (R113): the drawn byte under the mask, bits outside the mask 0, exactly one draw. The byte is a free value
(log 1): the statement holds for every answer of the random source. -/
def Obligations.RandomIsTheDrawUnderTheMask : Prop :=
  ∀ (s : State) (x : Reg) (kk : Byte), ∃ t, exec (.rnd x kk) s = .next t ∧
    (∀ k, (t.reg x).getLsbD k = ((Config.randomByte s.draws).getLsbD k && kk.getLsbD k)) ∧
    t.draws = s.draws + 1 ∧ (∀ r, r ≠ x → t.reg r = s.reg r) ∧ SameExcept [.v, .draws] s t

/-- "Exactly one draw is made per executed RND, and no other instruction or transaction draws" (R113): the counter of
answered draws, the model's own (log 1), moves by one in a transaction that executes RND, and in no other; that a
faulting one keeps it is the model's choice (log 4). -/
def Obligations.OnlyExecutedRandomDraws : Prop :=
  ∀ (tr : Transaction) (s : State),
    ((transact tr s).2.draws = s.draws + 1 ∧ tr = .step ∧ (transact tr s).1 = .executed ∧
      ∃ x kk, s.nextInstr = .ok (.rnd x kk)) ∨
    ((transact tr s).2.draws = s.draws ∧
      ¬ (tr = .step ∧ (transact tr s).1 = .executed ∧ ∃ x kk, s.nextInstr = .ok (.rnd x kk)))

/-! ## Display (43_display.md) -/

/-- CLS (R121): every row 0, nothing else touched. -/
def Obligations.ClearZeroesEveryRow : Prop :=
  ∀ s : State, ∃ t, exec .cls s = .next t ∧ (∀ (r : Nat) (h : r < 32), t.disp[r] = 0) ∧ SameExcept [.disp] s t

/-- DRW Vx,Vy,n completes exactly where the sprite lies in memory and on the display (R122): the `n` rows from row `Vy`
are combined by exclusive or with the placed sprite bytes from `I`, the other rows stay, and `VF` tells whether some
row had a lit pixel under a 1 of the placed sprite; with `n = 0` nothing is drawn and `VF` is 0. -/
def Obligations.DrawXorsTheSprite : Prop :=
  ∀ (s : State) (x y : Reg) (n : Nat),
    n = 0 ∨ (s.i.toNat + n ≤ 4096 ∧ (s.reg y).toNat + n ≤ 32) →
    ∃ t, exec (.drw x y n) s = .next t ∧
      (∀ (row : Nat) (h : row < 32), t.disp[row] =
        if (s.reg y).toNat ≤ row ∧ row < (s.reg y).toNat + n then
          s.disp[row] ^^^ place (s.byteAt (s.i.toNat + (row - (s.reg y).toNat))) (s.reg x).toNat
        else s.disp[row]) ∧
      (t.reg regF = 0 ∨ t.reg regF = 1) ∧
      (t.reg regF = 1 ↔ ∃ (row : Nat) (h : row < 32), (s.reg y).toNat ≤ row ∧ row < (s.reg y).toNat + n ∧
        s.disp[row] &&& place (s.byteAt (s.i.toNat + (row - (s.reg y).toNat))) (s.reg x).toNat ≠ 0) ∧
      (∀ r, r ≠ regF → t.reg r = s.reg r) ∧ SameExcept [.v, .disp] s t

/-- "Collision: a pixel that was lit before a sprite blit and becomes unlit after the XOR" (R124): `VF` after a DRW is 1
exactly when some pixel of the display did so. -/
def Obligations.CollisionIsALitPixelTurnedOff : Prop :=
  ∀ (s t : State) (x y : Reg) (n : Nat), exec (.drw x y n) s = .next t →
    (t.reg regF = 1 ↔ ∃ (row : Nat) (h : row < 32) (k : Nat),
      s.disp[row].getLsbD k = true ∧ t.disp[row].getLsbD k = false) ∧
    (t.reg regF = 0 ↔ ¬ ∃ (row : Nat) (h : row < 32) (k : Nat),
      s.disp[row].getLsbD k = true ∧ t.disp[row].getLsbD k = false)

/-- The equivalent statement of placement that R123 derives: sprite pixel `j` (bit `7 - j`) lands on column `vx + j`
(bit `63 - (vx + j)`) if that is at most 63, and is discarded otherwise; no other column is touched. -/
def Obligations.PlacementPutsPixelsOrDropsThem : Prop :=
  ∀ (b : Byte) (vx c : Nat), c < 64 →
    (place b vx).getLsbD (63 - c) = (decide (vx ≤ c) && decide (c < vx + 8) && b.getLsbD (7 - (c - vx)))

/-- A DRW that does not fit faults (R122, R177): at the first sprite row whose byte or display row is out of bounds, the
byte's address checked first, neither reduced (the spec's decisions D8, D13, D14). -/
def Obligations.DrawOutOfBoundsFaults : Prop :=
  ∀ (s : State) (x y : Reg) (n : Nat), 0 < n → 4096 < s.i.toNat + n ∨ 32 < (s.reg y).toNat + n →
    ∃ r, r < n ∧ (∀ q, q < r → s.i.toNat + q < 4096 ∧ (s.reg y).toNat + q < 32) ∧
      ((4096 ≤ s.i.toNat + r ∧ exec (.drw x y n) s = .fault (.outOfBounds (.mem (s.i.toNat + r)))) ∨
       (s.i.toNat + r < 4096 ∧ 32 ≤ (s.reg y).toNat + r ∧
        exec (.drw x y n) s = .fault (.outOfBounds (.row ((s.reg y).toNat + r)))))

/-- A sprite drawn twice "with no change of `I`, `V[x]`, `V[y]`" in between: the display is restored (R124, derived
there), and the second draw reports 1 exactly when the first one lit some pixel. THIS CLAUSE ON `VF` IS THE MODEL'S
READING (log 14): it follows the definition of collision in R122 and R124 against their gloss, repeated in
90_conflicts.md C9, that the second draw reports 1 whenever the placed sprite has a 1 bit. -/
def Obligations.DrawingTwiceRestoresTheDisplay : Prop :=
  ∀ (s t : State) (x y : Reg) (n : Nat), exec (.drw x y n) s = .next t → t.reg x = s.reg x → t.reg y = s.reg y →
    ∃ u, exec (.drw x y n) t = .next u ∧ u.disp = s.disp ∧
      (u.reg regF = 1 ↔ ∃ (row : Nat) (h : row < 32) (k : Nat),
        s.disp[row].getLsbD k = false ∧ t.disp[row].getLsbD k = true)

/-! ## Keys and timers (44_keys_timers.md) -/

/-- SKP (R130) and SKNP (R131) with `V[x]` at most 15: 2 more on `pc` exactly when the latch is set, or is not. The
second premise is the invariant's bound on `pc` (R14). -/
def Obligations.KeySkipsReadTheLatch : Prop :=
  ∀ (s : State) (x : Reg) (h : (s.reg x).toNat < 16), s.pc.toNat ≤ 0x10FE →
    (∃ t, exec (.skp x) s = .next t ∧ SameExcept [.pc] s t ∧
      t.pc.toNat = if s.key[(s.reg x).toNat] = true then s.pc.toNat + 2 else s.pc.toNat) ∧
    (∃ t, exec (.sknp x) s = .next t ∧ SameExcept [.pc] s t ∧
      t.pc.toNat = if s.key[(s.reg x).toNat] = true then s.pc.toNat else s.pc.toNat + 2)

/-- SKP and SKNP with `V[x]` above 15 raise InvalidKey with the value, unmasked (R130, R131, the spec's decision D15). -/
def Obligations.KeySkipsFaultAboveFifteen : Prop :=
  ∀ (s : State) (x : Reg), 15 < (s.reg x).toNat →
    exec (.skp x) s = .fault (.invalidKey (s.reg x).toNat) ∧
    exec (.sknp x) s = .fault (.invalidKey (s.reg x).toNat)

/-- LD Vx,DT (R132), LD DT,Vx (R134), LD ST,Vx (R135). -/
def Obligations.TimerMovesCopyOneByte : Prop :=
  ∀ (s : State) (x : Reg),
    (∃ t, exec (.ldVxDt x) s = .next t ∧ t.reg x = s.dt ∧ OnlyRegs (· = x) s t) ∧
    (∃ t, exec (.ldDtVx x) s = .next t ∧ t.dt = s.reg x ∧ SameExcept [.dt] s t) ∧
    (∃ t, exec (.ldStVx x) s = .next t ∧ t.st = s.reg x ∧ SameExcept [.st] s t)

/-- LD Vx,K (R133): the core awaits a key for `Vx`; nothing else changes, whatever keys are down. -/
def Obligations.WaitForKeyOnlySetsTheMarker : Prop :=
  ∀ (s : State) (x : Reg), ∃ t, exec (.ldVxK x) s = .next t ∧ t.wait = some x ∧ SameExcept [.wait] s t

/-- The wait from end to end (R133, R77): the Step that executes LD Vx,K, any number of Idle Steps, a KeyDown; then `Vx`
holds the key number, `pc` is past the instruction and the core runs. -/
def Obligations.KeyDownEndsTheWait : Prop :=
  ∀ (s : State) (x k : Reg) (n : Nat), s.fault = none → s.wait = none → s.nextInstr = .ok (.ldVxK x) →
    ∃ u, runHost (.step :: (List.replicate n .step ++ [.keyDown k.val])) s =
        (.executed :: (List.replicate n .idle ++ [.done]), u) ∧
      (u.reg x).toNat = k.val ∧ (∀ r, r ≠ x → u.reg r = s.reg r) ∧ u.key[k.val] = true ∧
      (∀ (j : Nat) (hj : j < 16), j ≠ k.val → u.key[j] = s.key[j]) ∧
      u.pc.toNat = s.pc.toNat + 2 ∧ u.wait = none ∧ SameExcept [.v, .key, .pc] s u

/-! ## Index register and memory (45_index_memory.md) -/

/-- LD I,nnn (R103), ADD I,Vx modulo 65536 (R140), LD F,Vx on the unreduced value (R141, the spec's decision D16). -/
def Obligations.IndexRegisterWrites : Prop :=
  ∀ (s : State) (x : Reg) (nnn : Addr12),
    (∃ t, exec (.ldI nnn) s = .next t ∧ t.i.toNat = nnn.toNat ∧ SameExcept [.i] s t) ∧
    (∃ t, exec (.addI x) s = .next t ∧ t.i.toNat = (s.i.toNat + (s.reg x).toNat) % 65536 ∧ SameExcept [.i] s t) ∧
    (∃ t, exec (.ldF x) s = .next t ∧ t.i.toNat = 5 * (s.reg x).toNat ∧ SameExcept [.i] s t)

/-- LD B,Vx (R142): "fault-free exactly when `I ≤ 4093`"; then the three decimal digits lie at `I`, `I + 1`, `I + 2` and
every other byte is unchanged; otherwise OutOfBounds at the first address of 4096 or more. -/
def Obligations.BcdStoresThreeDigits : Prop :=
  ∀ (s : State) (x : Reg),
    (s.i.toNat ≤ 4093 → ∃ t, exec (.ldB x) s = .next t ∧
      (t.byteAt (s.dataAddr 0)).toNat = (s.reg x).toNat / 100 ∧
      (t.byteAt (s.dataAddr 1)).toNat = (s.reg x).toNat / 10 % 10 ∧
      (t.byteAt (s.dataAddr 2)).toNat = (s.reg x).toNat % 10 ∧
      (∀ a, ¬ (s.dataAddr 0 ≤ a ∧ a < s.dataAddr 3) → t.byteAt a = s.byteAt a) ∧ SameExcept [.mem] s t) ∧
    (4093 < s.i.toNat → exec (.ldB x) s = .fault (.outOfBounds (.mem (max s.i.toNat 4096))))

/-- LD [I],Vx (R143): "fault-free exactly when `I + x ≤ 4095`"; then byte `I + k` is `V[k]` for `k` up to `x` and every
other byte is unchanged; otherwise OutOfBounds at the first address of 4096 or more. -/
def Obligations.DumpStoresRegistersAscending : Prop :=
  ∀ (s : State) (x : Reg),
    (s.i.toNat + x.val ≤ 4095 → ∃ t, exec (.dump x) s = .next t ∧
      (∀ k : Reg, k ≤ x → t.byteAt (s.dataAddr k.val) = s.reg k) ∧
      (∀ a, ¬ (s.dataAddr 0 ≤ a ∧ a ≤ s.dataAddr x.val) → t.byteAt a = s.byteAt a) ∧ SameExcept [.mem] s t) ∧
    (4095 < s.i.toNat + x.val → exec (.dump x) s = .fault (.outOfBounds (.mem (max s.i.toNat 4096))))

/-- LD Vx,[I] (R144): "fault-free exactly when `I + x ≤ 4095`"; then `V[k]` is byte `I + k` for `k` up to `x`, registers
above `x` and everything else unchanged; otherwise OutOfBounds at the first address of 4096 or more. -/
def Obligations.LoadReadsRegistersAscending : Prop :=
  ∀ (s : State) (x : Reg),
    (s.i.toNat + x.val ≤ 4095 → ∃ t, exec (.load x) s = .next t ∧
      (∀ k : Reg, k ≤ x → t.reg k = s.byteAt (s.dataAddr k.val)) ∧ OnlyRegs (· ≤ x) s t) ∧
    (4095 < s.i.toNat + x.val → exec (.load x) s = .fault (.outOfBounds (.mem (max s.i.toNat 4096))))

/-- A dump and a load of the same registers from the same place give the registers back (R143, R144). -/
def Obligations.LoadAfterDumpRestoresRegisters : Prop :=
  ∀ (s t : State) (x : Reg) (w : Vector Byte 16), exec (.dump x) s = .next t →
    ∃ u, exec (.load x) { t with v := w } = .next u ∧ (∀ k : Reg, k ≤ x → u.reg k = s.reg k) ∧
      (∀ a, u.byteAt a = t.byteAt a)

/-! ## The host's transactions (46_host_interface.md) -/

/-- Reset (R151) "may be issued in any condition" and sets every state element to its reset value; the random source is
not reset (R157, D26), and that the model's own counter of draws stays is the model's choice (log 1). "After a Reset with no Load, ... the first Step fetches `0x0000` and raises". -/
def Obligations.ResetTransactionRestoresEverything : Prop :=
  ∀ s : State, ∃ u, transact .reset s = (.done, u) ∧ SameExcept [.draws] State.reset u ∧ u.draws = s.draws ∧
    step u = .fault (.unsupportedInstruction 0x0000)

/-- Load (R152) is Reset followed by the copy to 0x200 up, for at most 3584 bytes; a longer image is refused and the
state is as it was (R150, the spec's decision D24). That the counter of draws stays is
the model's choice (log 1; R157). -/
def Obligations.LoadCopiesTheImage : Prop :=
  ∀ (s : State) (bytes : List Byte),
    (bytes.length ≤ 3584 → ∃ u, transact (.load bytes) s = (.done, u) ∧
      (∀ (k : Nat) (h : k < bytes.length), u.byteAt (0x200 + k) = bytes[k]) ∧
      (∀ a, ¬ (0x200 ≤ a ∧ a < 0x200 + bytes.length) → u.byteAt a = State.reset.byteAt a) ∧
      SameExcept [.mem, .draws] State.reset u ∧ u.draws = s.draws) ∧
    (3584 < bytes.length → transact (.load bytes) s = (.refused .imageTooLong, s))

/-- Tick (R153): "A timer set to `v` reaches 0 after exactly `v` Ticks"; the two timers count independently, each held
at 0, and nothing else changes. -/
def Obligations.TicksCountBothTimersDown : Prop :=
  ∀ (s : State) (n : Nat), s.fault = none →
    ∃ u, runHost (List.replicate n .tick) s = (List.replicate n .done, u) ∧
      u.dt.toNat = s.dt.toNat - n ∧ u.st.toNat = s.st.toNat - n ∧ SameExcept [.dt, .st] s u

/-- KeyDown(k) (R154) on a core that awaits no key sets the latch alone; KeyUp(k) (R155) clears it alone, also while a
key is awaited. -/
def Obligations.KeyEventsSetAndClearTheLatch : Prop :=
  ∀ (s : State) (k : Nat) (h : k < 16), s.fault = none →
    (s.wait = none → ∃ u, transact (.keyDown k) s = (.done, u) ∧ u.key[k] = true ∧
      (∀ (j : Nat) (hj : j < 16), j ≠ k → u.key[j] = s.key[j]) ∧ SameExcept [.key] s u) ∧
    (∃ u, transact (.keyUp k) s = (.done, u) ∧ u.key[k] = false ∧
      (∀ (j : Nat) (hj : j < 16), j ≠ k → u.key[j] = s.key[j]) ∧ SameExcept [.key] s u)

/-- KeyDown and KeyUp with a number above 15 raise InvalidKey and latch it (R154, R155, R176, the spec's D25). -/
def Obligations.KeyEventsFaultAboveFifteen : Prop :=
  ∀ (s : State) (k : Nat), 15 < k → s.fault = none →
    (∃ u, transact (.keyDown k) s = (.fault (.invalidKey k), u) ∧ u.fault = some (.invalidKey k)) ∧
    (∃ u, transact (.keyUp k) s = (.fault (.invalidKey k), u) ∧ u.fault = some (.invalidKey k))

/-- A Step that raises answers the fault and latches it (R175); "while it is set every other transaction is refused" but
Reset and Load (R24, R161): any sequence of Step, Tick, KeyDown and KeyUp answers that first fault and changes nothing. -/
def Obligations.FirstFaultIsLatched : Prop :=
  (∀ (s : State) (f : Fault), s.fault = none → step s = .fault f →
    ∃ u, transact .step s = (.fault f, u) ∧ u.fault = some f) ∧
  (∀ (s : State) (f : Fault) (ts : List Transaction), s.fault = some f →
    (∀ t ∈ ts, t = .step ∨ t = .tick ∨ (∃ k, t = .keyDown k) ∨ (∃ k, t = .keyUp k)) →
    runHost ts s = (List.replicate ts.length (.fault f), s))

/-- `dt` never increases but by LD DT,Vx, nor `st` but by LD ST,Vx (R25, derived there from R153): in any
transaction; that a faulting one leaves them is the model's choice (log 4). -/
def Obligations.TimersOnlyRiseByTheirLoads : Prop :=
  ∀ (tr : Transaction) (s : State),
    (s.dt.toNat < (transact tr s).2.dt.toNat → tr = .step ∧ ∃ x, s.nextInstr = .ok (.ldDtVx x)) ∧
    (s.st.toNat < (transact tr s).2.st.toNat → tr = .step ∧ ∃ x, s.nextInstr = .ok (.ldStVx x))

/-- The display is "only ever mutated via the display-blit algorithm or a full-clear" (R21), that is by CLS and DRW, or
by Reset and Load; ReadDisplay returns the rows and changes nothing (R156). That a faulting DRW leaves the display is the
model's choice (log 4). -/
def Obligations.DisplayChangesOnlyByClearAndDraw : Prop :=
  (∀ (tr : Transaction) (s : State), (transact tr s).2.disp ≠ s.disp →
    tr = .reset ∨ (∃ bytes, tr = .load bytes) ∨
    (tr = .step ∧ (s.nextInstr = .ok .cls ∨ ∃ x y n, s.nextInstr = .ok (.drw x y n)))) ∧
  (∀ s : State, s.fault = none → transact .readDisplay s = (.rows s.disp, s))

/-! ## The digit sprite table (10_state.md R22) -/

/-- The digit sprite table at reset (R22): for every table, LD F,Vx with a digit in `Vx` points at the digit's own five
bytes of it (R141), "a fixed 5-byte slot at address `5 * digit_value`". -/
def Obligations.FontAddressPointsAtTheDigitsGlyph : Prop :=
  ∀ (s : State) (x : Reg) (j : Nat) (hd : (s.reg x).toNat < 16) (hj : j < 5), ∃ t, exec (.ldF x) s = .next t ∧
    State.reset.byteAt (t.dataAddr j) = Config.font[5 * (s.reg x).toNat + j]
end

