-- ==== Sys2Proof/Laws/Decode.lean ====
section
/-! SUPPORT. The fields of the words each format builds (30_encoding.md R51, R52), and the two bytes of a word. -/

namespace Sys2Proof

/-- A field inside the lower half of a joined word. -/
theorem extract_of_low {m n : Nat} (a : BitVec m) (b : BitVec n) (s l : Nat) (h : s + l ≤ n) :
    (a ++ b).extractLsb' s l = b.extractLsb' s l := by
  apply BitVec.eq_of_getLsbD_eq
  intro k hk
  simp [BitVec.getLsbD_append, hk, show s + k < n by omega]

/-- A field inside the upper half of a joined word. -/
theorem extract_of_high {m n : Nat} (a : BitVec m) (b : BitVec n) (s l : Nat) (h : n ≤ s) :
    (a ++ b).extractLsb' s l = a.extractLsb' (s - n) l := by
  apply BitVec.eq_of_getLsbD_eq
  intro k hk
  simp [BitVec.getLsbD_append, hk, show ¬ s + k < n by omega, show s + k - n = s - n + k by omega]

theorem extract_all {n : Nat} (a : BitVec n) : a.extractLsb' 0 n = a := by
  apply BitVec.eq_of_getLsbD_eq
  intro k hk
  simp [hk]

/-- A word is its high part joined to its low part. -/
theorem append_of_extract {m n : Nat} (w : BitVec (m + n)) : w.extractLsb' n m ++ w.extractLsb' 0 n = w := by
  apply BitVec.eq_of_getLsbD_eq
  intro k hk
  simp only [BitVec.getLsbD_append, BitVec.getLsbD_extractLsb']
  by_cases h : k < n
  · simp [h]
  · simp [h, show k - n < m by omega, show n + (k - n) = k by omega]

@[simp] theorem joinBytes_split (w : Word) : joinBytes (highByte w) (lowByte w) = w :=
  append_of_extract (m := 8) (n := 8) w

@[simp] theorem highByte_join (hi lo : Byte) : highByte (joinBytes hi lo) = hi :=
  (extract_of_high hi lo 8 8 (by omega)).trans (extract_all hi)

@[simp] theorem lowByte_join (hi lo : Byte) : lowByte (joinBytes hi lo) = lo :=
  (extract_of_low hi lo 0 8 (by omega)).trans (extract_all lo)

@[simp] theorem toFin_regBits (r : Reg) : (regBits r).toFin = r := rfl

/-! Format A -/

@[simp] theorem fieldOp_formatA (op : BitVec 4) (nnn : Addr12) : fieldOp (formatA op nnn) = op :=
  (extract_of_high op nnn 12 4 (by omega)).trans (extract_all op)

@[simp] theorem fieldNnn_formatA (op : BitVec 4) (nnn : Addr12) : fieldNnn (formatA op nnn) = nnn :=
  (extract_of_low op nnn 0 12 (by omega)).trans (extract_all nnn)

/-! Formats XK and X -/

@[simp] theorem fieldOp_formatXK (op : BitVec 4) (x : Reg) (kk : Byte) : fieldOp (formatXK op x kk) = op :=
  ((extract_of_high (op ++ regBits x) kk 12 4 (by omega)).trans
    (extract_of_high op (regBits x) 4 4 (by omega))).trans (extract_all op)

@[simp] theorem fieldX_formatXK (op : BitVec 4) (x : Reg) (kk : Byte) : fieldX (formatXK op x kk) = x :=
  congrArg BitVec.toFin (((extract_of_high (op ++ regBits x) kk 8 4 (by omega)).trans
    (extract_of_low op (regBits x) 0 4 (by omega))).trans (extract_all (regBits x)))

@[simp] theorem fieldKk_formatXK (op : BitVec 4) (x : Reg) (kk : Byte) : fieldKk (formatXK op x kk) = kk :=
  (extract_of_low (op ++ regBits x) kk 0 8 (by omega)).trans (extract_all kk)

theorem formatX_eq (op : BitVec 4) (x : Reg) (sub8 : Byte) : formatX op x sub8 = formatXK op x sub8 := rfl

/-! Format XY -/

@[simp] theorem fieldOp_formatXY (op : BitVec 4) (x y : Reg) (n : BitVec 4) : fieldOp (formatXY op x y n) = op :=
  (((extract_of_high (op ++ regBits x ++ regBits y) n 12 4 (by omega)).trans
    (extract_of_high (op ++ regBits x) (regBits y) 8 4 (by omega))).trans
    (extract_of_high op (regBits x) 4 4 (by omega))).trans (extract_all op)

@[simp] theorem fieldX_formatXY (op : BitVec 4) (x y : Reg) (n : BitVec 4) : fieldX (formatXY op x y n) = x :=
  congrArg BitVec.toFin ((((extract_of_high (op ++ regBits x ++ regBits y) n 8 4 (by omega)).trans
    (extract_of_high (op ++ regBits x) (regBits y) 4 4 (by omega))).trans
    (extract_of_low op (regBits x) 0 4 (by omega))).trans (extract_all (regBits x)))

@[simp] theorem fieldY_formatXY (op : BitVec 4) (x y : Reg) (n : BitVec 4) : fieldY (formatXY op x y n) = y :=
  congrArg BitVec.toFin (((extract_of_high (op ++ regBits x ++ regBits y) n 4 4 (by omega)).trans
    (extract_of_low (op ++ regBits x) (regBits y) 0 4 (by omega))).trans (extract_all (regBits y)))

@[simp] theorem fieldSub4_formatXY (op : BitVec 4) (x y : Reg) (n : BitVec 4) :
    fieldSub4 (formatXY op x y n) = n :=
  (extract_of_low (op ++ regBits x ++ regBits y) n 0 4 (by omega)).trans (extract_all n)

@[simp] theorem fieldN_formatXY (op : BitVec 4) (x y : Reg) (n : BitVec 4) :
    fieldN (formatXY op x y n) = n.toNat :=
  congrArg BitVec.toNat (fieldSub4_formatXY op x y n)

/-! A word rebuilt from its fields -/

theorem formatA_fields (w : Word) : formatA (fieldOp w) (fieldNnn w) = w :=
  append_of_extract (m := 4) (n := 12) w

/-- Two fields that touch, joined. -/
theorem extract_append_extract {n : Nat} (w : BitVec n) (s l m : Nat) :
    w.extractLsb' (s + l) m ++ w.extractLsb' s l = w.extractLsb' s (m + l) := by
  apply BitVec.eq_of_getLsbD_eq
  intro k hk
  simp only [BitVec.getLsbD_append, BitVec.getLsbD_extractLsb']
  by_cases h : k < l
  · simp [h, hk]
  · simp [h, hk, show k - l < m by omega, show s + l + (k - l) = s + k by omega]

theorem formatXK_fields (w : Word) : formatXK (fieldOp w) (fieldX w) (fieldKk w) = w := by
  have h : fieldOp w ++ regBits (fieldX w) = w.extractLsb' 8 8 := extract_append_extract w 8 4 4
  unfold formatXK
  rw [h]
  exact append_of_extract (m := 8) (n := 8) w

theorem formatXY_fields (w : Word) : formatXY (fieldOp w) (fieldX w) (fieldY w) (fieldSub4 w) = w := by
  have h1 : fieldOp w ++ regBits (fieldX w) = w.extractLsb' 8 8 := extract_append_extract w 8 4 4
  have h2 : w.extractLsb' 8 8 ++ regBits (fieldY w) = w.extractLsb' 4 12 := extract_append_extract w 4 4 8
  unfold formatXY
  rw [h1, h2]
  exact append_of_extract (m := 12) (n := 4) w

@[simp] theorem ofNat_fieldN (w : Word) : BitVec.ofNat 4 (fieldN w) = fieldSub4 w :=
  BitVec.ofNat_toNat _ _

theorem fieldN_lt (w : Word) : fieldN w < 16 := (w.extractLsb' 0 4).isLt

/-- Masks and values meet field by field. -/
theorem and_append_parts {m n : Nat} (a c : BitVec m) (b d : BitVec n) :
    (a ++ b) &&& (c ++ d) = (a &&& c) ++ (b &&& d) := by
  apply BitVec.eq_of_getLsbD_eq
  intro k hk
  simp only [BitVec.getLsbD_and, BitVec.getLsbD_append]
  split <;> rfl

end Sys2Proof
end

