-- ==== Sys2Proof/Laws/Memory.lean ====
section
/-! SUPPORT. Memory: a read after a write, and that every operation keeps the canonical form. -/

namespace Sys2Proof.Machine

theorem resetByte_font {a : Nat} (h : a < 80) : resetByte a = Config.font[a] := by
  simp [resetByte, fontByte, h]

@[simp] theorem resetByte_zero {a : Nat} (h : 80 ≤ a) : resetByte a = 0 := by
  simp [resetByte, fontByte, Nat.not_lt.mpr h]

@[simp] theorem Memory.read_nil (a : Nat) : Memory.read [] a = resetByte a := rfl

theorem Memory.read_insert (c : Host.Cell) (m : Memory) (a : Nat) (h : ∀ d ∈ m, d.1 ≠ c.1) :
    Memory.read (Memory.insert c m) a = if c.1 = a then c.2 else Memory.read m a := by
  induction m with
  | nil => simp [Memory.insert, Memory.read]
  | cons d ds ih =>
    have hd : d.1 ≠ c.1 := h d (by simp)
    have ih := ih (fun e he => h e (by simp [he]))
    by_cases hlt : c.1 < d.1
    · simp [Memory.insert, hlt, Memory.read]
    · simp only [Memory.insert, hlt, if_false, Memory.read, ih]
      by_cases hda : d.1 = a
      · have : c.1 ≠ a := fun e => hd (hda.trans e.symm)
        simp [hda, this]
      · simp [hda]

theorem Memory.read_filter_same (m : Memory) (a : Nat) :
    Memory.read (m.filter (fun c => c.1 != a)) a = resetByte a := by
  induction m with
  | nil => rfl
  | cons d ds ih =>
    by_cases hd : d.1 = a
    · simpa [hd] using ih
    · simpa [hd, Memory.read] using ih

theorem Memory.read_filter_ne (m : Memory) {a b : Nat} (h : b ≠ a) :
    Memory.read (m.filter (fun c => c.1 != a)) b = Memory.read m b := by
  induction m with
  | nil => rfl
  | cons d ds ih =>
    by_cases hd : d.1 = a
    · have : d.1 ≠ b := fun e => h (e.symm.trans hd)
      simp only [hd, bne_self_eq_false, Bool.false_eq_true, not_false_eq_true, List.filter_cons_of_neg, ih,
        Memory.read]
      simp [Ne.symm h]
    · simp [hd, Memory.read, ih]

/-- What a write does to every read: the written address reads the byte, every other address reads as before. -/
theorem Memory.read_write (m : Memory) (a b : Nat) (x : Byte) :
    Memory.read (Memory.write m a x) b = if b = a then x else Memory.read m b := by
  have hne : ∀ d ∈ m.filter (fun c => c.1 != a), d.1 ≠ a := by
    intro d hd
    simpa using (List.mem_filter.mp hd).2
  unfold Memory.write
  by_cases hx : x = resetByte a
  · by_cases hb : b = a
    · simp [hx, hb, Memory.read_filter_same]
    · simp [hx, hb, Memory.read_filter_ne m hb]
  · simp only [hx, if_false]
    rw [Memory.read_insert _ _ _ hne]
    by_cases hb : b = a
    · simp [hb]
    · simp [hb, Ne.symm hb, Memory.read_filter_ne m hb]

@[simp] theorem Memory.read_write_same (m : Memory) (a : Nat) (x : Byte) :
    Memory.read (Memory.write m a x) a = x := by
  simp [Memory.read_write]

theorem Memory.read_write_ne (m : Memory) {a b : Nat} (x : Byte) (h : b ≠ a) :
    Memory.read (Memory.write m a x) b = Memory.read m b := by
  simp [Memory.read_write, h]

/-- The canonical form, as a proposition. -/
theorem Memory.wf_iff (m : Memory) :
    Memory.wf m = true ↔
      m.Pairwise (fun c d => c.1 < d.1) ∧ ∀ c ∈ m, c.1 < 4096 ∧ c.2 ≠ resetByte c.1 := by
  simp only [Memory.wf, Bool.and_eq_true, decide_eq_true_eq, List.all_eq_true, bne_iff_ne, ne_eq, Config.memSize_eq]

@[simp] theorem Memory.wf_nil : Memory.wf [] = true := by decide

theorem Memory.mem_insert (c d : Host.Cell) (m : Memory) :
    d ∈ Memory.insert c m ↔ d = c ∨ d ∈ m := by
  induction m with
  | nil => simp [Memory.insert]
  | cons e es ih =>
    by_cases h : c.1 < e.1
    · simp [Memory.insert, h]
    · simp only [Memory.insert, h, if_false, List.mem_cons, ih]
      tauto

theorem Memory.pairwise_insert (c : Host.Cell) (m : Memory) (hm : m.Pairwise (fun c d => c.1 < d.1))
    (h : ∀ d ∈ m, d.1 ≠ c.1) : (Memory.insert c m).Pairwise (fun c d => c.1 < d.1) := by
  induction m with
  | nil => simp [Memory.insert]
  | cons e es ih =>
    rw [List.pairwise_cons] at hm
    have he : e.1 ≠ c.1 := h e (by simp)
    by_cases hlt : c.1 < e.1
    · rw [Memory.insert, if_pos hlt, List.pairwise_cons, List.pairwise_cons]
      refine ⟨fun d hd => ?_, hm⟩
      rcases List.mem_cons.mp hd with rfl | hd
      · exact hlt
      · exact hlt.trans (hm.1 d hd)
    · simp only [Memory.insert, hlt, if_false, List.pairwise_cons]
      refine ⟨fun d hd => ?_, ih hm.2 (fun d hd => h d (by simp [hd]))⟩
      rcases (Memory.mem_insert c d es).mp hd with rfl | hd
      · omega
      · exact hm.1 d hd

/-- A write inside memory keeps the canonical form. -/
theorem Memory.wf_write (m : Memory) (a : Nat) (x : Byte) (hm : Memory.wf m = true) (ha : a < 4096) :
    Memory.wf (Memory.write m a x) = true := by
  rw [Memory.wf_iff] at hm ⊢
  have hp : (m.filter (fun c => c.1 != a)).Pairwise (fun c d => c.1 < d.1) := hm.1.filter _
  have hall : ∀ c ∈ m.filter (fun c => c.1 != a), c.1 < 4096 ∧ c.2 ≠ resetByte c.1 :=
    fun c hc => hm.2 c (List.mem_filter.mp hc).1
  have hne : ∀ d ∈ m.filter (fun c => c.1 != a), d.1 ≠ a := by
    intro d hd
    simpa using (List.mem_filter.mp hd).2
  unfold Memory.write
  by_cases hx : x = resetByte a
  · rw [if_pos hx]
    exact ⟨hp, hall⟩
  · simp only [hx, if_false]
    refine ⟨Memory.pairwise_insert _ _ hp hne, fun c hc => ?_⟩
    rcases (Memory.mem_insert _ _ _).mp hc with rfl | hc
    · exact ⟨ha, hx⟩
    · exact hall c hc

/-- A copy inside memory keeps the canonical form (46_host_interface.md rule R152). -/
theorem Memory.wf_copy (bs : List Byte) (a : Nat) (m : Memory) (hm : Memory.wf m = true)
    (h : a + bs.length ≤ 4096) : Memory.wf (Memory.copy bs a m) = true := by
  induction bs generalizing a m with
  | nil => exact hm
  | cons b bs ih =>
    simp only [List.length_cons] at h
    exact ih (a + 1) _ (Memory.wf_write m a b hm (by omega)) (by omega)

/-- What a copy does to every read: byte `k` of the sequence at `a + k`, every other address as before. -/
theorem Memory.read_copy (bs : List Byte) (a b : Nat) (m : Memory) :
    Memory.read (Memory.copy bs a m) b =
      if h : a ≤ b ∧ b < a + bs.length then bs[b - a]'(by omega) else Memory.read m b := by
  induction bs generalizing a m with
  | nil => simp [Memory.copy]
  | cons x xs ih =>
    simp only [Memory.copy, ih, Memory.read_write, List.length_cons]
    by_cases hb : b = a
    · subst hb
      simp
    · by_cases h1 : a + 1 ≤ b ∧ b < a + 1 + xs.length
      · have h2 : a ≤ b ∧ b < a + (xs.length + 1) := by omega
        have h3 : b - a = (b - (a + 1)) + 1 := by omega
        simp [h1, h2, h3]
      · have h2 : ¬ (a ≤ b ∧ b < a + (xs.length + 1)) := by omega
        rw [dif_neg h1, dif_neg h2, if_neg hb]

end Sys2Proof.Machine
end

