-- ==== Sys2Proof/Laws/State.lean ====
section
/-! SUPPORT. What each named update leaves in each field of the state, one lemma per field, true by unfolding; and the
same for the views `reg` and `byteAt`. -/

namespace Sys2Proof.Machine

@[simp] theorem State.setReg_v (s : State) (r : Reg) (b : Byte) : (s.setReg r b).v = s.v.set r.val b := rfl
@[simp] theorem State.setReg_i (s : State) (r : Reg) (b : Byte) : (s.setReg r b).i = s.i := rfl
@[simp] theorem State.setReg_pc (s : State) (r : Reg) (b : Byte) : (s.setReg r b).pc = s.pc := rfl
@[simp] theorem State.setReg_stack (s : State) (r : Reg) (b : Byte) : (s.setReg r b).stack = s.stack := rfl
@[simp] theorem State.setReg_sp (s : State) (r : Reg) (b : Byte) : (s.setReg r b).sp = s.sp := rfl
@[simp] theorem State.setReg_mem (s : State) (r : Reg) (b : Byte) : (s.setReg r b).mem = s.mem := rfl
@[simp] theorem State.setReg_dt (s : State) (r : Reg) (b : Byte) : (s.setReg r b).dt = s.dt := rfl
@[simp] theorem State.setReg_st (s : State) (r : Reg) (b : Byte) : (s.setReg r b).st = s.st := rfl
@[simp] theorem State.setReg_key (s : State) (r : Reg) (b : Byte) : (s.setReg r b).key = s.key := rfl
@[simp] theorem State.setReg_disp (s : State) (r : Reg) (b : Byte) : (s.setReg r b).disp = s.disp := rfl
@[simp] theorem State.setReg_wait (s : State) (r : Reg) (b : Byte) : (s.setReg r b).wait = s.wait := rfl
@[simp] theorem State.setReg_fault (s : State) (r : Reg) (b : Byte) : (s.setReg r b).fault = s.fault := rfl
@[simp] theorem State.setReg_draws (s : State) (r : Reg) (b : Byte) : (s.setReg r b).draws = s.draws := rfl

@[simp] theorem State.setI_v (s : State) (w : Word) : (s.setI w).v = s.v := rfl
@[simp] theorem State.setI_i (s : State) (w : Word) : (s.setI w).i = w := rfl
@[simp] theorem State.setI_pc (s : State) (w : Word) : (s.setI w).pc = s.pc := rfl
@[simp] theorem State.setI_stack (s : State) (w : Word) : (s.setI w).stack = s.stack := rfl
@[simp] theorem State.setI_sp (s : State) (w : Word) : (s.setI w).sp = s.sp := rfl
@[simp] theorem State.setI_mem (s : State) (w : Word) : (s.setI w).mem = s.mem := rfl
@[simp] theorem State.setI_dt (s : State) (w : Word) : (s.setI w).dt = s.dt := rfl
@[simp] theorem State.setI_st (s : State) (w : Word) : (s.setI w).st = s.st := rfl
@[simp] theorem State.setI_key (s : State) (w : Word) : (s.setI w).key = s.key := rfl
@[simp] theorem State.setI_disp (s : State) (w : Word) : (s.setI w).disp = s.disp := rfl
@[simp] theorem State.setI_wait (s : State) (w : Word) : (s.setI w).wait = s.wait := rfl
@[simp] theorem State.setI_fault (s : State) (w : Word) : (s.setI w).fault = s.fault := rfl
@[simp] theorem State.setI_draws (s : State) (w : Word) : (s.setI w).draws = s.draws := rfl

@[simp] theorem State.setPc_v (s : State) (w : Word) : (s.setPc w).v = s.v := rfl
@[simp] theorem State.setPc_i (s : State) (w : Word) : (s.setPc w).i = s.i := rfl
@[simp] theorem State.setPc_pc (s : State) (w : Word) : (s.setPc w).pc = w := rfl
@[simp] theorem State.setPc_stack (s : State) (w : Word) : (s.setPc w).stack = s.stack := rfl
@[simp] theorem State.setPc_sp (s : State) (w : Word) : (s.setPc w).sp = s.sp := rfl
@[simp] theorem State.setPc_mem (s : State) (w : Word) : (s.setPc w).mem = s.mem := rfl
@[simp] theorem State.setPc_dt (s : State) (w : Word) : (s.setPc w).dt = s.dt := rfl
@[simp] theorem State.setPc_st (s : State) (w : Word) : (s.setPc w).st = s.st := rfl
@[simp] theorem State.setPc_key (s : State) (w : Word) : (s.setPc w).key = s.key := rfl
@[simp] theorem State.setPc_disp (s : State) (w : Word) : (s.setPc w).disp = s.disp := rfl
@[simp] theorem State.setPc_wait (s : State) (w : Word) : (s.setPc w).wait = s.wait := rfl
@[simp] theorem State.setPc_fault (s : State) (w : Word) : (s.setPc w).fault = s.fault := rfl
@[simp] theorem State.setPc_draws (s : State) (w : Word) : (s.setPc w).draws = s.draws := rfl

@[simp] theorem State.setDt_v (s : State) (b : Byte) : (s.setDt b).v = s.v := rfl
@[simp] theorem State.setDt_i (s : State) (b : Byte) : (s.setDt b).i = s.i := rfl
@[simp] theorem State.setDt_pc (s : State) (b : Byte) : (s.setDt b).pc = s.pc := rfl
@[simp] theorem State.setDt_stack (s : State) (b : Byte) : (s.setDt b).stack = s.stack := rfl
@[simp] theorem State.setDt_sp (s : State) (b : Byte) : (s.setDt b).sp = s.sp := rfl
@[simp] theorem State.setDt_mem (s : State) (b : Byte) : (s.setDt b).mem = s.mem := rfl
@[simp] theorem State.setDt_dt (s : State) (b : Byte) : (s.setDt b).dt = b := rfl
@[simp] theorem State.setDt_st (s : State) (b : Byte) : (s.setDt b).st = s.st := rfl
@[simp] theorem State.setDt_key (s : State) (b : Byte) : (s.setDt b).key = s.key := rfl
@[simp] theorem State.setDt_disp (s : State) (b : Byte) : (s.setDt b).disp = s.disp := rfl
@[simp] theorem State.setDt_wait (s : State) (b : Byte) : (s.setDt b).wait = s.wait := rfl
@[simp] theorem State.setDt_fault (s : State) (b : Byte) : (s.setDt b).fault = s.fault := rfl
@[simp] theorem State.setDt_draws (s : State) (b : Byte) : (s.setDt b).draws = s.draws := rfl

@[simp] theorem State.setSt_v (s : State) (b : Byte) : (s.setSt b).v = s.v := rfl
@[simp] theorem State.setSt_i (s : State) (b : Byte) : (s.setSt b).i = s.i := rfl
@[simp] theorem State.setSt_pc (s : State) (b : Byte) : (s.setSt b).pc = s.pc := rfl
@[simp] theorem State.setSt_stack (s : State) (b : Byte) : (s.setSt b).stack = s.stack := rfl
@[simp] theorem State.setSt_sp (s : State) (b : Byte) : (s.setSt b).sp = s.sp := rfl
@[simp] theorem State.setSt_mem (s : State) (b : Byte) : (s.setSt b).mem = s.mem := rfl
@[simp] theorem State.setSt_dt (s : State) (b : Byte) : (s.setSt b).dt = s.dt := rfl
@[simp] theorem State.setSt_st (s : State) (b : Byte) : (s.setSt b).st = b := rfl
@[simp] theorem State.setSt_key (s : State) (b : Byte) : (s.setSt b).key = s.key := rfl
@[simp] theorem State.setSt_disp (s : State) (b : Byte) : (s.setSt b).disp = s.disp := rfl
@[simp] theorem State.setSt_wait (s : State) (b : Byte) : (s.setSt b).wait = s.wait := rfl
@[simp] theorem State.setSt_fault (s : State) (b : Byte) : (s.setSt b).fault = s.fault := rfl
@[simp] theorem State.setSt_draws (s : State) (b : Byte) : (s.setSt b).draws = s.draws := rfl

@[simp] theorem State.setKey_v (s : State) (k : Reg) (down : Bool) : (s.setKey k down).v = s.v := rfl
@[simp] theorem State.setKey_i (s : State) (k : Reg) (down : Bool) : (s.setKey k down).i = s.i := rfl
@[simp] theorem State.setKey_pc (s : State) (k : Reg) (down : Bool) : (s.setKey k down).pc = s.pc := rfl
@[simp] theorem State.setKey_stack (s : State) (k : Reg) (down : Bool) : (s.setKey k down).stack = s.stack := rfl
@[simp] theorem State.setKey_sp (s : State) (k : Reg) (down : Bool) : (s.setKey k down).sp = s.sp := rfl
@[simp] theorem State.setKey_mem (s : State) (k : Reg) (down : Bool) : (s.setKey k down).mem = s.mem := rfl
@[simp] theorem State.setKey_dt (s : State) (k : Reg) (down : Bool) : (s.setKey k down).dt = s.dt := rfl
@[simp] theorem State.setKey_st (s : State) (k : Reg) (down : Bool) : (s.setKey k down).st = s.st := rfl
@[simp] theorem State.setKey_key (s : State) (k : Reg) (down : Bool) : (s.setKey k down).key = s.key.set k.val down := rfl
@[simp] theorem State.setKey_disp (s : State) (k : Reg) (down : Bool) : (s.setKey k down).disp = s.disp := rfl
@[simp] theorem State.setKey_wait (s : State) (k : Reg) (down : Bool) : (s.setKey k down).wait = s.wait := rfl
@[simp] theorem State.setKey_fault (s : State) (k : Reg) (down : Bool) : (s.setKey k down).fault = s.fault := rfl
@[simp] theorem State.setKey_draws (s : State) (k : Reg) (down : Bool) : (s.setKey k down).draws = s.draws := rfl

@[simp] theorem State.setDisp_v (s : State) (d : Vector Row 32) : (s.setDisp d).v = s.v := rfl
@[simp] theorem State.setDisp_i (s : State) (d : Vector Row 32) : (s.setDisp d).i = s.i := rfl
@[simp] theorem State.setDisp_pc (s : State) (d : Vector Row 32) : (s.setDisp d).pc = s.pc := rfl
@[simp] theorem State.setDisp_stack (s : State) (d : Vector Row 32) : (s.setDisp d).stack = s.stack := rfl
@[simp] theorem State.setDisp_sp (s : State) (d : Vector Row 32) : (s.setDisp d).sp = s.sp := rfl
@[simp] theorem State.setDisp_mem (s : State) (d : Vector Row 32) : (s.setDisp d).mem = s.mem := rfl
@[simp] theorem State.setDisp_dt (s : State) (d : Vector Row 32) : (s.setDisp d).dt = s.dt := rfl
@[simp] theorem State.setDisp_st (s : State) (d : Vector Row 32) : (s.setDisp d).st = s.st := rfl
@[simp] theorem State.setDisp_key (s : State) (d : Vector Row 32) : (s.setDisp d).key = s.key := rfl
@[simp] theorem State.setDisp_disp (s : State) (d : Vector Row 32) : (s.setDisp d).disp = d := rfl
@[simp] theorem State.setDisp_wait (s : State) (d : Vector Row 32) : (s.setDisp d).wait = s.wait := rfl
@[simp] theorem State.setDisp_fault (s : State) (d : Vector Row 32) : (s.setDisp d).fault = s.fault := rfl
@[simp] theorem State.setDisp_draws (s : State) (d : Vector Row 32) : (s.setDisp d).draws = s.draws := rfl

@[simp] theorem State.setWait_v (s : State) (w : Option Reg) : (s.setWait w).v = s.v := rfl
@[simp] theorem State.setWait_i (s : State) (w : Option Reg) : (s.setWait w).i = s.i := rfl
@[simp] theorem State.setWait_pc (s : State) (w : Option Reg) : (s.setWait w).pc = s.pc := rfl
@[simp] theorem State.setWait_stack (s : State) (w : Option Reg) : (s.setWait w).stack = s.stack := rfl
@[simp] theorem State.setWait_sp (s : State) (w : Option Reg) : (s.setWait w).sp = s.sp := rfl
@[simp] theorem State.setWait_mem (s : State) (w : Option Reg) : (s.setWait w).mem = s.mem := rfl
@[simp] theorem State.setWait_dt (s : State) (w : Option Reg) : (s.setWait w).dt = s.dt := rfl
@[simp] theorem State.setWait_st (s : State) (w : Option Reg) : (s.setWait w).st = s.st := rfl
@[simp] theorem State.setWait_key (s : State) (w : Option Reg) : (s.setWait w).key = s.key := rfl
@[simp] theorem State.setWait_disp (s : State) (w : Option Reg) : (s.setWait w).disp = s.disp := rfl
@[simp] theorem State.setWait_wait (s : State) (w : Option Reg) : (s.setWait w).wait = w := rfl
@[simp] theorem State.setWait_fault (s : State) (w : Option Reg) : (s.setWait w).fault = s.fault := rfl
@[simp] theorem State.setWait_draws (s : State) (w : Option Reg) : (s.setWait w).draws = s.draws := rfl

@[simp] theorem State.setMem_v (s : State) (m : Memory) : (s.setMem m).v = s.v := rfl
@[simp] theorem State.setMem_i (s : State) (m : Memory) : (s.setMem m).i = s.i := rfl
@[simp] theorem State.setMem_pc (s : State) (m : Memory) : (s.setMem m).pc = s.pc := rfl
@[simp] theorem State.setMem_stack (s : State) (m : Memory) : (s.setMem m).stack = s.stack := rfl
@[simp] theorem State.setMem_sp (s : State) (m : Memory) : (s.setMem m).sp = s.sp := rfl
@[simp] theorem State.setMem_mem (s : State) (m : Memory) : (s.setMem m).mem = m := rfl
@[simp] theorem State.setMem_dt (s : State) (m : Memory) : (s.setMem m).dt = s.dt := rfl
@[simp] theorem State.setMem_st (s : State) (m : Memory) : (s.setMem m).st = s.st := rfl
@[simp] theorem State.setMem_key (s : State) (m : Memory) : (s.setMem m).key = s.key := rfl
@[simp] theorem State.setMem_disp (s : State) (m : Memory) : (s.setMem m).disp = s.disp := rfl
@[simp] theorem State.setMem_wait (s : State) (m : Memory) : (s.setMem m).wait = s.wait := rfl
@[simp] theorem State.setMem_fault (s : State) (m : Memory) : (s.setMem m).fault = s.fault := rfl
@[simp] theorem State.setMem_draws (s : State) (m : Memory) : (s.setMem m).draws = s.draws := rfl

@[simp] theorem State.countDraw_v (s : State) : s.countDraw.v = s.v := rfl
@[simp] theorem State.countDraw_i (s : State) : s.countDraw.i = s.i := rfl
@[simp] theorem State.countDraw_pc (s : State) : s.countDraw.pc = s.pc := rfl
@[simp] theorem State.countDraw_stack (s : State) : s.countDraw.stack = s.stack := rfl
@[simp] theorem State.countDraw_sp (s : State) : s.countDraw.sp = s.sp := rfl
@[simp] theorem State.countDraw_mem (s : State) : s.countDraw.mem = s.mem := rfl
@[simp] theorem State.countDraw_dt (s : State) : s.countDraw.dt = s.dt := rfl
@[simp] theorem State.countDraw_st (s : State) : s.countDraw.st = s.st := rfl
@[simp] theorem State.countDraw_key (s : State) : s.countDraw.key = s.key := rfl
@[simp] theorem State.countDraw_disp (s : State) : s.countDraw.disp = s.disp := rfl
@[simp] theorem State.countDraw_wait (s : State) : s.countDraw.wait = s.wait := rfl
@[simp] theorem State.countDraw_fault (s : State) : s.countDraw.fault = s.fault := rfl
@[simp] theorem State.countDraw_draws (s : State) : s.countDraw.draws = s.draws + 1 := rfl

@[simp] theorem State.advance_v (s : State) : s.advance.v = s.v := rfl
@[simp] theorem State.advance_i (s : State) : s.advance.i = s.i := rfl
@[simp] theorem State.advance_pc (s : State) : s.advance.pc = s.pc + 2 := rfl
@[simp] theorem State.advance_stack (s : State) : s.advance.stack = s.stack := rfl
@[simp] theorem State.advance_sp (s : State) : s.advance.sp = s.sp := rfl
@[simp] theorem State.advance_mem (s : State) : s.advance.mem = s.mem := rfl
@[simp] theorem State.advance_dt (s : State) : s.advance.dt = s.dt := rfl
@[simp] theorem State.advance_st (s : State) : s.advance.st = s.st := rfl
@[simp] theorem State.advance_key (s : State) : s.advance.key = s.key := rfl
@[simp] theorem State.advance_disp (s : State) : s.advance.disp = s.disp := rfl
@[simp] theorem State.advance_wait (s : State) : s.advance.wait = s.wait := rfl
@[simp] theorem State.advance_fault (s : State) : s.advance.fault = s.fault := rfl
@[simp] theorem State.advance_draws (s : State) : s.advance.draws = s.draws := rfl

@[simp] theorem State.latch_v (s : State) (f : Fault) : (s.latch f).v = s.v := rfl
@[simp] theorem State.latch_i (s : State) (f : Fault) : (s.latch f).i = s.i := rfl
@[simp] theorem State.latch_pc (s : State) (f : Fault) : (s.latch f).pc = s.pc := rfl
@[simp] theorem State.latch_stack (s : State) (f : Fault) : (s.latch f).stack = s.stack := rfl
@[simp] theorem State.latch_sp (s : State) (f : Fault) : (s.latch f).sp = s.sp := rfl
@[simp] theorem State.latch_mem (s : State) (f : Fault) : (s.latch f).mem = s.mem := rfl
@[simp] theorem State.latch_dt (s : State) (f : Fault) : (s.latch f).dt = s.dt := rfl
@[simp] theorem State.latch_st (s : State) (f : Fault) : (s.latch f).st = s.st := rfl
@[simp] theorem State.latch_key (s : State) (f : Fault) : (s.latch f).key = s.key := rfl
@[simp] theorem State.latch_disp (s : State) (f : Fault) : (s.latch f).disp = s.disp := rfl
@[simp] theorem State.latch_wait (s : State) (f : Fault) : (s.latch f).wait = s.wait := rfl
@[simp] theorem State.latch_fault (s : State) (f : Fault) : (s.latch f).fault = some f := rfl
@[simp] theorem State.latch_draws (s : State) (f : Fault) : (s.latch f).draws = s.draws := rfl

@[simp] theorem State.doReset_v (s : State) : s.doReset.v = State.reset.v := rfl
@[simp] theorem State.doReset_i (s : State) : s.doReset.i = State.reset.i := rfl
@[simp] theorem State.doReset_pc (s : State) : s.doReset.pc = State.reset.pc := rfl
@[simp] theorem State.doReset_stack (s : State) : s.doReset.stack = State.reset.stack := rfl
@[simp] theorem State.doReset_sp (s : State) : s.doReset.sp = State.reset.sp := rfl
@[simp] theorem State.doReset_mem (s : State) : s.doReset.mem = State.reset.mem := rfl
@[simp] theorem State.doReset_dt (s : State) : s.doReset.dt = State.reset.dt := rfl
@[simp] theorem State.doReset_st (s : State) : s.doReset.st = State.reset.st := rfl
@[simp] theorem State.doReset_key (s : State) : s.doReset.key = State.reset.key := rfl
@[simp] theorem State.doReset_disp (s : State) : s.doReset.disp = State.reset.disp := rfl
@[simp] theorem State.doReset_wait (s : State) : s.doReset.wait = State.reset.wait := rfl
@[simp] theorem State.doReset_fault (s : State) : s.doReset.fault = State.reset.fault := rfl
@[simp] theorem State.doReset_draws (s : State) : s.doReset.draws = s.draws := rfl

@[simp] theorem State.placeWord_v (s : State) (w : Word) : (s.placeWord w).v = s.v := rfl
@[simp] theorem State.placeWord_i (s : State) (w : Word) : (s.placeWord w).i = s.i := rfl
@[simp] theorem State.placeWord_pc (s : State) (w : Word) : (s.placeWord w).pc = s.pc := rfl
@[simp] theorem State.placeWord_stack (s : State) (w : Word) : (s.placeWord w).stack = s.stack := rfl
@[simp] theorem State.placeWord_sp (s : State) (w : Word) : (s.placeWord w).sp = s.sp := rfl
@[simp] theorem State.placeWord_mem (s : State) (w : Word) : (s.placeWord w).mem = Memory.write (Memory.write s.mem s.pc.toNat (highByte w)) (s.pc.toNat + 1) (lowByte w) := rfl
@[simp] theorem State.placeWord_dt (s : State) (w : Word) : (s.placeWord w).dt = s.dt := rfl
@[simp] theorem State.placeWord_st (s : State) (w : Word) : (s.placeWord w).st = s.st := rfl
@[simp] theorem State.placeWord_key (s : State) (w : Word) : (s.placeWord w).key = s.key := rfl
@[simp] theorem State.placeWord_disp (s : State) (w : Word) : (s.placeWord w).disp = s.disp := rfl
@[simp] theorem State.placeWord_wait (s : State) (w : Word) : (s.placeWord w).wait = none := rfl
@[simp] theorem State.placeWord_fault (s : State) (w : Word) : (s.placeWord w).fault = none := rfl
@[simp] theorem State.placeWord_draws (s : State) (w : Word) : (s.placeWord w).draws = s.draws := rfl

@[simp] theorem State.reg_setReg_same (s : State) (r : Reg) (b : Byte) : (s.setReg r b).reg r = b := by
  simp [State.reg]

theorem State.reg_setReg (s : State) (r q : Reg) (b : Byte) :
    (s.setReg r b).reg q = if q = r then b else s.reg q := by
  by_cases h : q = r
  · subst h; simp
  · have : r.val ≠ q.val := fun e => h (Fin.ext e.symm)
    simp [State.reg, h, this]

theorem State.reg_setReg_ne (s : State) {r q : Reg} (b : Byte) (h : q ≠ r) :
    (s.setReg r b).reg q = s.reg q := by
  simp [State.reg_setReg, h]

@[simp] theorem State.byteAt_setReg (s : State) (r : Reg) (b : Byte) (x : Nat) : (s.setReg r b).byteAt x = s.byteAt x := rfl
@[simp] theorem State.reg_setI (s : State) (w : Word) (q : Reg) : (s.setI w).reg q = s.reg q := rfl
@[simp] theorem State.byteAt_setI (s : State) (w : Word) (x : Nat) : (s.setI w).byteAt x = s.byteAt x := rfl
@[simp] theorem State.reg_setPc (s : State) (w : Word) (q : Reg) : (s.setPc w).reg q = s.reg q := rfl
@[simp] theorem State.byteAt_setPc (s : State) (w : Word) (x : Nat) : (s.setPc w).byteAt x = s.byteAt x := rfl
@[simp] theorem State.reg_setDt (s : State) (b : Byte) (q : Reg) : (s.setDt b).reg q = s.reg q := rfl
@[simp] theorem State.byteAt_setDt (s : State) (b : Byte) (x : Nat) : (s.setDt b).byteAt x = s.byteAt x := rfl
@[simp] theorem State.reg_setSt (s : State) (b : Byte) (q : Reg) : (s.setSt b).reg q = s.reg q := rfl
@[simp] theorem State.byteAt_setSt (s : State) (b : Byte) (x : Nat) : (s.setSt b).byteAt x = s.byteAt x := rfl
@[simp] theorem State.reg_setKey (s : State) (k : Reg) (down : Bool) (q : Reg) : (s.setKey k down).reg q = s.reg q := rfl
@[simp] theorem State.byteAt_setKey (s : State) (k : Reg) (down : Bool) (x : Nat) : (s.setKey k down).byteAt x = s.byteAt x := rfl
@[simp] theorem State.reg_setDisp (s : State) (d : Vector Row 32) (q : Reg) : (s.setDisp d).reg q = s.reg q := rfl
@[simp] theorem State.byteAt_setDisp (s : State) (d : Vector Row 32) (x : Nat) : (s.setDisp d).byteAt x = s.byteAt x := rfl
@[simp] theorem State.reg_setWait (s : State) (w : Option Reg) (q : Reg) : (s.setWait w).reg q = s.reg q := rfl
@[simp] theorem State.byteAt_setWait (s : State) (w : Option Reg) (x : Nat) : (s.setWait w).byteAt x = s.byteAt x := rfl
@[simp] theorem State.reg_setMem (s : State) (m : Memory) (q : Reg) : (s.setMem m).reg q = s.reg q := rfl
@[simp] theorem State.reg_countDraw (s : State) (q : Reg) : s.countDraw.reg q = s.reg q := rfl
@[simp] theorem State.byteAt_countDraw (s : State) (x : Nat) : s.countDraw.byteAt x = s.byteAt x := rfl
@[simp] theorem State.reg_advance (s : State) (q : Reg) : s.advance.reg q = s.reg q := rfl
@[simp] theorem State.byteAt_advance (s : State) (x : Nat) : s.advance.byteAt x = s.byteAt x := rfl
@[simp] theorem State.reg_latch (s : State) (f : Fault) (q : Reg) : (s.latch f).reg q = s.reg q := rfl
@[simp] theorem State.byteAt_latch (s : State) (f : Fault) (x : Nat) : (s.latch f).byteAt x = s.byteAt x := rfl
@[simp] theorem State.reg_placeWord (s : State) (w : Word) (q : Reg) : (s.placeWord w).reg q = s.reg q := rfl
@[simp] theorem State.byteAt_setMem (s : State) (m : Memory) (x : Nat) :
    (s.setMem m).byteAt x = Memory.read m x := rfl

/-- A taken or untaken skip changes `pc` alone (41_flow.md rule R88). -/
theorem State.skipIf_eq (s : State) (c : Bool) :
    s.skipIf c = s.setPc (if c then s.pc + 2 else s.pc) := by
  cases c <;> rfl

@[simp] theorem State.skipIf_v (s : State) (c : Bool) : (s.skipIf c).v = s.v := by
  rw [State.skipIf_eq]; rfl
@[simp] theorem State.skipIf_i (s : State) (c : Bool) : (s.skipIf c).i = s.i := by
  rw [State.skipIf_eq]; rfl
@[simp] theorem State.skipIf_pc (s : State) (c : Bool) : (s.skipIf c).pc = if c then s.pc + 2 else s.pc := by
  rw [State.skipIf_eq]; rfl
@[simp] theorem State.skipIf_stack (s : State) (c : Bool) : (s.skipIf c).stack = s.stack := by
  rw [State.skipIf_eq]; rfl
@[simp] theorem State.skipIf_sp (s : State) (c : Bool) : (s.skipIf c).sp = s.sp := by
  rw [State.skipIf_eq]; rfl
@[simp] theorem State.skipIf_mem (s : State) (c : Bool) : (s.skipIf c).mem = s.mem := by
  rw [State.skipIf_eq]; rfl
@[simp] theorem State.skipIf_dt (s : State) (c : Bool) : (s.skipIf c).dt = s.dt := by
  rw [State.skipIf_eq]; rfl
@[simp] theorem State.skipIf_st (s : State) (c : Bool) : (s.skipIf c).st = s.st := by
  rw [State.skipIf_eq]; rfl
@[simp] theorem State.skipIf_key (s : State) (c : Bool) : (s.skipIf c).key = s.key := by
  rw [State.skipIf_eq]; rfl
@[simp] theorem State.skipIf_disp (s : State) (c : Bool) : (s.skipIf c).disp = s.disp := by
  rw [State.skipIf_eq]; rfl
@[simp] theorem State.skipIf_wait (s : State) (c : Bool) : (s.skipIf c).wait = s.wait := by
  rw [State.skipIf_eq]; rfl
@[simp] theorem State.skipIf_fault (s : State) (c : Bool) : (s.skipIf c).fault = s.fault := by
  rw [State.skipIf_eq]; rfl
@[simp] theorem State.skipIf_draws (s : State) (c : Bool) : (s.skipIf c).draws = s.draws := by
  rw [State.skipIf_eq]; rfl
@[simp] theorem State.reg_skipIf (s : State) (c : Bool) (q : Reg) : (s.skipIf c).reg q = s.reg q := by
  rw [State.skipIf_eq]; rfl
@[simp] theorem State.byteAt_skipIf (s : State) (c : Bool) (x : Nat) : (s.skipIf c).byteAt x = s.byteAt x := by
  rw [State.skipIf_eq]; rfl

end Sys2Proof.Machine
end

