-- ==== Sys2Proof/Laws/Ops.lean ====
section
/-! SUPPORT. What each shared operation can do, said once: memory accesses with their bounds check, the return stack,
the key latches, result and flag, runs of stores and loads, the blit loop, fetch and step. -/

namespace Sys2Proof.Machine

/-- Every fault has a code from 1 to 5, so 0 is free for none (R170). -/
theorem Fault.code_bounds (f : Fault) : 1 ≤ f.code ∧ f.code ≤ 5 := by
  cases f <;> simp [Fault.code]

theorem State.faultCode_eq_zero (s : State) : s.faultCode = 0 ↔ s.fault = none := by
  unfold State.faultCode
  split
  · simp_all
  · rename_i f h
    have := f.code_bounds
    simp [h]
    omega

@[simp] theorem State.faultCode_latch (s : State) (f : Fault) : (s.latch f).faultCode = f.code := rfl


/-! ### Memory accesses (20_memory.md R36) -/

theorem State.memRead_ok (s : State) {a : Nat} (h : a < 4096) : s.memRead a = .ok (s.byteAt a) := by
  simp [State.memRead, h]

theorem State.memRead_error (s : State) {a : Nat} (h : 4096 ≤ a) :
    s.memRead a = .error (.outOfBounds (.mem a)) := by
  simp [State.memRead, Nat.not_lt.mpr h]

theorem State.memWrite_ok (s : State) {a : Nat} (b : Byte) (h : a < 4096) :
    s.memWrite a b = .ok (s.setMem (Memory.write s.mem a b)) := by
  simp [State.memWrite, h]

theorem State.memWrite_error (s : State) {a : Nat} (b : Byte) (h : 4096 ≤ a) :
    s.memWrite a b = .error (.outOfBounds (.mem a)) := by
  simp [State.memWrite, Nat.not_lt.mpr h]

/-- A store that succeeds changes the one byte it names and nothing else. -/
theorem State.memWrite_inv {s t : State} {a : Nat} {b : Byte} (h : s.memWrite a b = .ok t) :
    a < 4096 ∧ t = s.setMem (Memory.write s.mem a b) := by
  by_cases ha : a < 4096
  · rw [State.memWrite_ok s b ha] at h
    exact ⟨ha, (Except.ok.inj h).symm⟩
  · rw [State.memWrite_error s b (Nat.not_lt.mp ha)] at h
    cases h

@[simp] theorem State.setMem_setMem (s : State) (m n : Memory) : (s.setMem m).setMem n = s.setMem n := rfl

/-! ### The return stack (41_flow.md R85, R87) -/

theorem State.push_full (s : State) (h : s.sp.val = 16) : s.push = .error .stackOverflow := by
  simp [State.push, h]

theorem State.push_ok (s : State) (h : s.sp.val < 16) :
    s.push = .ok { s with stack := s.stack.set s.sp.val s.pc h, sp := ⟨s.sp.val + 1, by omega⟩ } := by
  simp [State.push, h]

theorem State.pop_empty (s : State) (h : s.sp.val = 0) : s.pop = .error .stackUnderflow := by
  simp [State.pop, h]

theorem State.pop_ok (s : State) (h : 0 < s.sp.val) :
    s.pop = .ok { s with
      sp := ⟨s.sp.val - 1, by have := s.sp.isLt; omega⟩
      pc := s.stack[s.sp.val - 1]'(by have := s.sp.isLt; omega) } := by
  simp [State.pop, Nat.ne_of_gt h]

/-- Everything a push can do. -/
theorem State.push_inv {s t : State} (h : s.push = .ok t) :
    ∃ hs : s.sp.val < 16,
      t = { s with stack := s.stack.set s.sp.val s.pc hs, sp := ⟨s.sp.val + 1, by omega⟩ } := by
  by_cases hs : s.sp.val < 16
  · rw [State.push_ok s hs] at h
    exact ⟨hs, (Except.ok.inj h).symm⟩
  · simp [State.push, hs] at h

/-- Everything a pop can do. -/
theorem State.pop_inv {s t : State} (h : s.pop = .ok t) :
    0 < s.sp.val ∧ t = { s with
      sp := ⟨s.sp.val - 1, by have := s.sp.isLt; omega⟩
      pc := s.stack[s.sp.val - 1]'(by have := s.sp.isLt; omega) } := by
  by_cases hs : 0 < s.sp.val
  · rw [State.pop_ok s hs] at h
    exact ⟨hs, (Except.ok.inj h).symm⟩
  · rw [State.pop_empty s (by omega)] at h
    cases h

/-! ### Key latches, result and flag -/

theorem State.keyLatch_ok (s : State) {k : Nat} (h : k < 16) : s.keyLatch k = .ok s.key[k] := by
  simp [State.keyLatch, h]

theorem State.keyLatch_error (s : State) {k : Nat} (h : 15 < k) : s.keyLatch k = .error (.invalidKey k) := by
  simp [State.keyLatch, show ¬ k < 16 by omega]

/-- Result first, flag last (42_load_alu.md rule R104). -/
theorem State.writeWithFlag_eq (s : State) (x : Reg) (r : Byte) (c : Bool) :
    s.writeWithFlag x r c = (s.setReg x r).setReg regF (flagByte c) := rfl

/-! ### Runs of stores (45_index_memory.md R142, R143) -/

theorem State.storeBytes_ok (bs : List Byte) (a : Nat) (s : State) (h : a + bs.length ≤ 4096) :
    State.storeBytes bs a s = .ok (s.setMem (Memory.copy bs a s.mem)) := by
  induction bs generalizing a s with
  | nil => rfl
  | cons b bs ih =>
    simp only [List.length_cons] at h
    rw [State.storeBytes, State.memWrite_ok s b (by omega)]
    simp only
    rw [ih (a + 1) _ (by omega)]
    simp [Memory.copy]

/-- A run of stores that leaves memory faults at the first address of 4096 or more. -/
theorem State.storeBytes_error (bs : List Byte) (a : Nat) (s : State) (h : 4096 < a + bs.length)
    (hb : bs ≠ []) : State.storeBytes bs a s = .error (.outOfBounds (.mem (max a 4096))) := by
  induction bs generalizing a s with
  | nil => exact absurd rfl hb
  | cons b bs ih =>
    simp only [List.length_cons] at h
    by_cases ha : a < 4096
    · rw [State.storeBytes, State.memWrite_ok s b ha]
      have hbs : bs ≠ [] := by
        rintro rfl
        simp only [List.length_nil] at h
        omega
      simp only
      rw [ih (a + 1) _ (by omega) hbs]
      simp only [show max (a + 1) 4096 = max a 4096 by omega]
    · rw [State.storeBytes, State.memWrite_error s b (by omega), show max a 4096 = a by omega]

/-! ### Runs of loads (45_index_memory.md R144) -/

theorem regsUpTo_vals : ∀ x : Reg, (regsUpTo x).map Fin.val = List.range (x.val + 1) := by decide

theorem mem_regsUpTo (x r : Reg) : r ∈ regsUpTo x ↔ r ≤ x := by
  simp [regsUpTo]

@[simp] theorem length_regsUpTo (x : Reg) : (regsUpTo x).length = x.val + 1 := by
  have := congrArg List.length (regsUpTo_vals x)
  simpa using this

/-- A run of loads inside memory: the listed registers hold their bytes, nothing but registers has changed. -/
theorem State.loadRegs_ok (rs : List Reg) (s : State) (h : ∀ r ∈ rs, s.dataAddr r.val < 4096) :
    ∃ w, State.loadRegs rs s = .ok { s with v := w } ∧
      ∀ q, ({ s with v := w } : State).reg q = if q ∈ rs then s.byteAt (s.dataAddr q.val) else s.reg q := by
  induction rs generalizing s with
  | nil => exact ⟨s.v, rfl, fun q => by simp⟩
  | cons r rs ih =>
    rw [State.loadRegs, State.memRead_ok s (h r (by simp))]
    obtain ⟨w, hw, hq⟩ := ih (s.setReg r (s.byteAt (s.dataAddr r.val)))
      (fun q hq => h q (by simp [hq]))
    refine ⟨w, hw, fun q => ?_⟩
    have := hq q
    simp only [State.reg_setReg] at this
    rw [show ({ s with v := w } : State).reg q =
      ({ s.setReg r (s.byteAt (s.dataAddr r.val)) with v := w } : State).reg q from rfl, this]
    by_cases h1 : q ∈ rs
    · simp [h1, State.dataAddr]
    · by_cases h2 : q = r
      · simp [h2, State.dataAddr]
      · simp [h1, h2]

/-- A run of loads over consecutive registers that leaves memory faults at the first address of 4096 or more. -/
theorem State.loadRegs_error (rs : List Reg) (k : Nat) (s : State)
    (hk : rs.map Fin.val = List.range' k rs.length) (h : 4096 < s.dataAddr k + rs.length) (hb : rs ≠ []) :
    State.loadRegs rs s = .error (.outOfBounds (.mem (max (s.dataAddr k) 4096))) := by
  induction rs generalizing k s with
  | nil => exact absurd rfl hb
  | cons r rs ih =>
    simp only [List.map_cons, List.length_cons, List.range'_succ, List.cons.injEq] at hk h
    obtain ⟨hr, hk⟩ := hk
    subst hr
    by_cases ha : s.dataAddr r.val < 4096
    · rw [State.loadRegs, State.memRead_ok s ha]
      have hrs : rs ≠ [] := by
        rintro rfl
        simp only [List.length_nil] at h
        omega
      have e : (s.setReg r (s.byteAt (s.dataAddr r.val))).dataAddr (r.val + 1) = s.dataAddr r.val + 1 := rfl
      simp only
      rw [ih (r.val + 1) _ hk (by rw [e]; omega) hrs, e]
      simp only [show max (s.dataAddr r.val + 1) 4096 = max (s.dataAddr r.val) 4096 by omega]
    · rw [State.loadRegs, State.memRead_error s (by omega), show max (s.dataAddr r.val) 4096 = s.dataAddr r.val by omega]

/-! ### The blit loop (43_display.md R122, R124) -/

/-- A blit that fits: each row `vy + j` it reaches is combined with the byte at `I + j`, every other row stays, and the
flag is the disjunction of the rows' collisions with the display as it was. -/
theorem State.blit_ok (s : State) (vx vy k r : Nat) (d : Vector Row 32) (c : Bool)
    (h : k = 0 ∨ (s.dataAddr (r + k) ≤ 4096 ∧ vy + r + k ≤ 32)) :
    ∃ d' c', s.blit vx vy k r d c = .ok (d', c') ∧
      (∀ (row : Nat) (hr : row < 32), d'[row] =
        if vy + r ≤ row ∧ row < vy + r + k then d[row] ^^^ place (s.byteAt (s.dataAddr (row - vy))) vx else d[row]) ∧
      (c' = true ↔ c = true ∨ ∃ (row : Nat) (hr : row < 32), vy + r ≤ row ∧ row < vy + r + k ∧
        collides d[row] (place (s.byteAt (s.dataAddr (row - vy))) vx) = true) := by
  induction k generalizing r d c with
  | zero =>
    refine ⟨d, c, rfl, fun row hr => ?_, ?_⟩
    · rw [if_neg (by omega)]
    · constructor
      · exact Or.inl
      · rintro (h | ⟨row, hr, h1, h2, -⟩)
        · exact h
        · omega
  | succ k ih =>
    obtain ⟨hm, hv⟩ := h.resolve_left (by omega)
    have hd : s.dataAddr r < 4096 := by simp only [State.dataAddr] at hm ⊢; omega
    have hrow : vy + r < 32 := by omega
    simp only [State.blit, State.memRead_ok s hd, dif_pos hrow]
    obtain ⟨d', c', he, hrows, hflag⟩ := ih (r + 1)
      (d.set (vy + r) (d[vy + r] ^^^ place (s.byteAt (s.dataAddr r)) vx) hrow)
      (c || collides d[vy + r] (place (s.byteAt (s.dataAddr r)) vx))
      (Or.inr ⟨by simp only [State.dataAddr] at hm ⊢; omega, by omega⟩)
    refine ⟨d', c', he, fun row hr => ?_, ?_⟩
    · rw [hrows row hr]
      by_cases e : row = vy + r
      · subst e
        rw [if_neg (by omega), if_pos (by omega)]
        simp
      · rw [Vector.getElem_set_ne _ _ (by omega)]
        by_cases hin : vy + (r + 1) ≤ row ∧ row < vy + (r + 1) + k
        · rw [if_pos hin, if_pos (by omega)]
        · rw [if_neg hin, if_neg (by omega)]
    · rw [hflag]
      constructor
      · rintro (hc | ⟨row, hr, h1, h2, h3⟩)
        · rcases Bool.or_eq_true_iff.mp hc with hc | hc
          · exact Or.inl hc
          · exact Or.inr ⟨vy + r, hrow, by omega, by omega, by simpa using hc⟩
        · rw [Vector.getElem_set_ne _ _ (by omega)] at h3
          exact Or.inr ⟨row, hr, by omega, by omega, h3⟩
      · rintro (hc | ⟨row, hr, h1, h2, h3⟩)
        · exact Or.inl (by simp [hc])
        · by_cases e : row = vy + r
          · subst e
            refine Or.inl ?_
            simp only [Nat.add_sub_cancel_left] at h3
            simp [h3]
          · refine Or.inr ⟨row, hr, by omega, by omega, ?_⟩
            rw [Vector.getElem_set_ne _ _ (by omega)]
            exact h3

/-- A blit that does not fit faults at the first row whose sprite byte or display row is out of bounds, the byte's
address first (R122, R177). -/
theorem State.blit_error (s : State) (vx vy k r : Nat) (d : Vector Row 32) (c : Bool) (hk : 0 < k)
    (h : 4096 < s.dataAddr (r + k) ∨ 32 < vy + r + k) :
    ∃ j, r ≤ j ∧ j < r + k ∧ (∀ q, r ≤ q → q < j → s.dataAddr q < 4096 ∧ vy + q < 32) ∧
      ((4096 ≤ s.dataAddr j ∧ s.blit vx vy k r d c = .error (.outOfBounds (.mem (s.dataAddr j)))) ∨
       (s.dataAddr j < 4096 ∧ 32 ≤ vy + j ∧ s.blit vx vy k r d c = .error (.outOfBounds (.row (vy + j))))) := by
  induction k generalizing r d c with
  | zero => omega
  | succ k ih =>
    by_cases hd : s.dataAddr r < 4096
    · by_cases hrow : vy + r < 32
      · have hk' : 0 < k := by
          simp only [State.dataAddr] at h hd
          omega
        obtain ⟨j, h1, h2, h3, h4⟩ := ih (r + 1)
          (d.set (vy + r) (d[vy + r] ^^^ place (s.byteAt (s.dataAddr r)) vx) hrow)
          (c || collides d[vy + r] (place (s.byteAt (s.dataAddr r)) vx)) hk'
          (by simp only [State.dataAddr] at h ⊢; omega)
        refine ⟨j, by omega, by omega, fun q hq hq' => ?_, ?_⟩
        · by_cases e : q = r
          · subst e; exact ⟨hd, hrow⟩
          · exact h3 q (by omega) hq'
        · simpa only [State.blit, State.memRead_ok s hd, dif_pos hrow] using h4
      · refine ⟨r, le_refl _, by omega, fun q hq hq' => by omega, Or.inr ⟨hd, by omega, ?_⟩⟩
        simp [State.blit, State.memRead_ok s hd, hrow]
    · refine ⟨r, le_refl _, by omega, fun q hq hq' => by omega, Or.inl ⟨by omega, ?_⟩⟩
      simp [State.blit, State.memRead_error s (Nat.not_lt.mp hd)]

/-! ### Fetch and step (40_step_cycle.md R70 to R76) -/

theorem State.fetch_ok (s : State) (h : s.pc.toNat ≤ 4094) :
    s.fetch = .ok (joinBytes (s.byteAt s.pc.toNat) (s.byteAt (s.pc.toNat + 1))) := by
  simp [State.fetch, State.memRead_ok s (show s.pc.toNat < 4096 by omega),
    State.memRead_ok s (show s.pc.toNat + 1 < 4096 by omega)]

theorem State.fetch_error (s : State) (h : 4095 ≤ s.pc.toNat) :
    s.fetch = .error (.outOfBounds (.mem (max s.pc.toNat 4096))) := by
  by_cases h1 : s.pc.toNat < 4096
  · have e : s.pc.toNat = 4095 := by omega
    unfold State.fetch
    rw [e, State.memRead_ok s (by omega), State.memRead_error s (by omega)]
    rfl
  · simp [State.fetch, State.memRead_error s (Nat.not_lt.mp h1), show max s.pc.toNat 4096 = s.pc.toNat by omega]

/-- Fetching succeeds only at `pc ≤ 4094` (R73). -/
theorem State.fetch_inv {s : State} {w : Word} (h : s.fetch = .ok w) :
    s.pc.toNat ≤ 4094 ∧ w = joinBytes (s.byteAt s.pc.toNat) (s.byteAt (s.pc.toNat + 1)) := by
  by_cases h1 : s.pc.toNat ≤ 4094
  · rw [State.fetch_ok s h1] at h
    exact ⟨h1, (Except.ok.inj h).symm⟩
  · rw [State.fetch_error s (by omega)] at h
    cases h

theorem State.nextInstr_inv {s : State} {i : Instr} (h : s.nextInstr = .ok i) :
    s.pc.toNat ≤ 4094 ∧ decodeWord (joinBytes (s.byteAt s.pc.toNat) (s.byteAt (s.pc.toNat + 1))) = .ok i := by
  unfold State.nextInstr at h
  split at h
  · cases h
  · rename_i w hw
    obtain ⟨hpc, rfl⟩ := State.fetch_inv hw
    split at h
    · rename_i j hj
      injection h with h
      exact ⟨hpc, h ▸ hj⟩
    · cases h

/-- Everything a Step that answers a next state can do: nothing, while a key is awaited, or one instruction. -/
theorem step_inv {s t : State} (h : step s = .next t) :
    s.fault = none ∧
      ((s.wait.isSome = true ∧ t = s) ∨
       (s.wait = none ∧ ∃ i, s.nextInstr = .ok i ∧ exec i s.advance = .next t)) := by
  unfold step raise at h
  split at h
  · cases h
  · rename_i hf
    refine ⟨hf, ?_⟩
    split at h
    · rename_i x hx
      injection h with h
      exact Or.inl ⟨by simp [hx], h.symm⟩
    · rename_i hx
      split at h
      · cases h
      · rename_i i hi
        exact Or.inr ⟨hx, i, hi, h⟩

/-- A Step of a running core whose next instruction is `i`. -/
theorem step_running (s : State) (i : Instr) (hf : s.fault = none) (hw : s.wait = none)
    (hi : s.nextInstr = .ok i) : step s = exec i s.advance := by
  simp [step, hf, hw, hi]

end Sys2Proof.Machine
end

