-- ==== Sys2Proof/Laws/PerInstr.lean ====
section
/-! SUPPORT. One family of per-instruction lemmas: the word of every instruction lies in its row of the opcode map
(30_encoding.md rule R55: "a word `w` selects the row exactly when `w & mask = match`"). -/

namespace Sys2Proof.Laws.EncodesInItsRow

/-- The instruction's word selects the instruction's row. -/
def Statement (i : Instr) : Prop := i.row.selects (encode i) = true

theorem formatA_selects (op : BitVec 4) (nnn : Addr12) :
    (formatA op nnn) &&& (formatA 0xF#4 0x000#12) = formatA op 0x000#12 := by
  refine (and_append_parts op 0xF#4 nnn 0x000#12).trans ?_
  rw [show op &&& 0xF#4 = op from BitVec.and_allOnes, show nnn &&& 0x000#12 = 0x000#12 from BitVec.and_zero]
  rfl

theorem formatXK_selects (op : BitVec 4) (x : Reg) (kk m : Byte) :
    (formatXK op x kk) &&& (formatXK 0xF#4 0 m) = formatXK op 0 (kk &&& m) := by
  refine (and_append_parts (op ++ regBits x) (0xF#4 ++ regBits 0) kk m).trans ?_
  rw [and_append_parts, show op &&& 0xF#4 = op from BitVec.and_allOnes,
    show regBits x &&& regBits 0 = regBits 0 from BitVec.and_zero]
  rfl

theorem formatXY_selects (op : BitVec 4) (x y : Reg) (n m : BitVec 4) :
    (formatXY op x y n) &&& (formatXY 0xF#4 0 0 m) = formatXY op 0 0 (n &&& m) := by
  refine (and_append_parts (op ++ regBits x ++ regBits y) (0xF#4 ++ regBits 0 ++ regBits 0) n m).trans ?_
  rw [and_append_parts, and_append_parts, show op &&& 0xF#4 = op from BitVec.and_allOnes,
    show regBits x &&& regBits 0 = regBits 0 from BitVec.and_zero,
    show regBits y &&& regBits 0 = regBits 0 from BitVec.and_zero]
  rfl

theorem of_and {i : Instr} {w m v : Word} (hw : encode i = w) (hm : i.row.mask = m) (hv : i.row.value = v)
    (h : w &&& m = v) : Statement i := by
  unfold Statement OpcodeRow.selects
  rw [hw, hm, hv, h]
  exact beq_self_eq_true v

theorem of_xk {i : Instr} {op : BitVec 4} {x : Reg} {kk : Byte} (hw : encode i = formatXK op x kk)
    (hm : i.row.mask = formatXK 0xF#4 0 0#8) (hv : i.row.value = formatXK op 0 0#8) : Statement i :=
  of_and hw hm hv ((formatXK_selects op x kk 0#8).trans (by rw [BitVec.and_zero]))

theorem of_x {i : Instr} {op : BitVec 4} {x : Reg} {sub8 : Byte} (hw : encode i = formatXK op x sub8)
    (hm : i.row.mask = formatXK 0xF#4 0 0xFF#8) (hv : i.row.value = formatXK op 0 sub8) : Statement i :=
  of_and hw hm hv ((formatXK_selects op x sub8 0xFF#8).trans
    (by rw [show sub8 &&& 0xFF#8 = sub8 from BitVec.and_allOnes]))

theorem of_xy {i : Instr} {op : BitVec 4} {x y : Reg} {n : BitVec 4} (hw : encode i = formatXY op x y n)
    (hm : i.row.mask = formatXY 0xF#4 0 0 0xF#4) (hv : i.row.value = formatXY op 0 0 n) : Statement i :=
  of_and hw hm hv ((formatXY_selects op x y n 0xF#4).trans
    (by rw [show n &&& 0xF#4 = n from BitVec.and_allOnes]))

theorem of_xyn {i : Instr} {op : BitVec 4} {x y : Reg} {n : BitVec 4} (hw : encode i = formatXY op x y n)
    (hm : i.row.mask = formatXY 0xF#4 0 0 0#4) (hv : i.row.value = formatXY op 0 0 0#4) : Statement i :=
  of_and hw hm hv ((formatXY_selects op x y n 0#4).trans (by rw [BitVec.and_zero]))

/-! One lemma per constructor. -/

theorem cls : Statement .cls := of_and rfl rfl rfl rfl
theorem ret : Statement .ret := of_and rfl rfl rfl rfl
theorem jp (nnn : Addr12) : Statement (.jp nnn) := of_and rfl rfl rfl (formatA_selects 0x1#4 nnn)
theorem call (nnn : Addr12) : Statement (.call nnn) := of_and rfl rfl rfl (formatA_selects 0x2#4 nnn)
theorem seImm (x : Reg) (kk : Byte) : Statement (.seImm x kk) := of_xk rfl rfl rfl
theorem sneImm (x : Reg) (kk : Byte) : Statement (.sneImm x kk) := of_xk rfl rfl rfl
theorem seReg (x y : Reg) : Statement (.seReg x y) := of_xy rfl rfl rfl
theorem ldImm (x : Reg) (kk : Byte) : Statement (.ldImm x kk) := of_xk rfl rfl rfl
theorem addImm (x : Reg) (kk : Byte) : Statement (.addImm x kk) := of_xk rfl rfl rfl
theorem ldReg (x y : Reg) : Statement (.ldReg x y) := of_xy rfl rfl rfl
theorem orReg (x y : Reg) : Statement (.orReg x y) := of_xy rfl rfl rfl
theorem andReg (x y : Reg) : Statement (.andReg x y) := of_xy rfl rfl rfl
theorem xorReg (x y : Reg) : Statement (.xorReg x y) := of_xy rfl rfl rfl
theorem addReg (x y : Reg) : Statement (.addReg x y) := of_xy rfl rfl rfl
theorem sub (x y : Reg) : Statement (.sub x y) := of_xy rfl rfl rfl
theorem shr (x y : Reg) : Statement (.shr x y) := of_xy rfl rfl rfl
theorem subn (x y : Reg) : Statement (.subn x y) := of_xy rfl rfl rfl
theorem shl (x y : Reg) : Statement (.shl x y) := of_xy rfl rfl rfl
theorem sneReg (x y : Reg) : Statement (.sneReg x y) := of_xy rfl rfl rfl
theorem ldI (nnn : Addr12) : Statement (.ldI nnn) := of_and rfl rfl rfl (formatA_selects 0xA#4 nnn)
theorem jpV0 (nnn : Addr12) : Statement (.jpV0 nnn) := of_and rfl rfl rfl (formatA_selects 0xB#4 nnn)
theorem rnd (x : Reg) (kk : Byte) : Statement (.rnd x kk) := of_xk rfl rfl rfl
theorem drw (x y : Reg) (n : Nat) : Statement (.drw x y n) := of_xyn rfl rfl rfl
theorem skp (x : Reg) : Statement (.skp x) := of_x rfl rfl rfl
theorem sknp (x : Reg) : Statement (.sknp x) := of_x rfl rfl rfl
theorem ldVxDt (x : Reg) : Statement (.ldVxDt x) := of_x rfl rfl rfl
theorem ldVxK (x : Reg) : Statement (.ldVxK x) := of_x rfl rfl rfl
theorem ldDtVx (x : Reg) : Statement (.ldDtVx x) := of_x rfl rfl rfl
theorem ldStVx (x : Reg) : Statement (.ldStVx x) := of_x rfl rfl rfl
theorem addI (x : Reg) : Statement (.addI x) := of_x rfl rfl rfl
theorem ldF (x : Reg) : Statement (.ldF x) := of_x rfl rfl rfl
theorem ldB (x : Reg) : Statement (.ldB x) := of_x rfl rfl rfl
theorem dump (x : Reg) : Statement (.dump x) := of_x rfl rfl rfl
theorem load (x : Reg) : Statement (.load x) := of_x rfl rfl rfl

end Sys2Proof.Laws.EncodesInItsRow
end

