-- ==== Sys2Proof/Tests/Slice0.lean ====
section
/-! SUPPORT. The model's own tests: the well-formedness checks, a word written out bit by bit for every instruction's
decoding, one or two Steps per instruction with the results of 95_test_vectors.md, and a state that meets the
hypotheses of each statement that has some, clause by clause. -/

namespace Sys2Proof.Tests

open Sys2Proof Sys2Proof.Machine

/-! ### Helpers -/

/-- The reset state with some registers set. -/
def regs (l : List (Reg × Byte)) : State := l.foldl (fun s p => s.setReg p.1 p.2) State.reset

/-- A state with `bs` in memory from `a` up and `I = a`. -/
def withData (s : State) (a : Nat) (bs : List Byte) : State :=
  (s.setMem (Memory.copy bs a s.mem)).setI (BitVec.ofNat 16 a)

/-- A state with `n` calls outstanding. -/
def withDepth (s : State) (n : Fin 17) : State := { s with sp := n }

/-- One Step of a core with the word `w` at `pc`. -/
def run (s : State) (w : Word) : Result := step (s.placeWord w)

/-- The outcome is a next state of which `p` holds. -/
def nextIs (r : Result) (p : State → Bool) : Bool :=
  match r with
  | .next t => p t
  | .fault _ => false
  | .refused _ => false

/-- The outcome is the fault `f`. -/
def faultIs (r : Result) (f : Fault) : Bool :=
  match r with
  | .next _ => false
  | .fault g => g == f
  | .refused _ => false

/-! ### Well-formedness (R53) -/

theorem test_wf_refuses_height_16 : (Instr.drw 1 2 16).wf = false := by decide
theorem test_wf_accepts_height_15 : (Instr.drw 1 2 15).wf = true := by decide

/-! ### Decoding, each word written out bit by bit from its pattern in R55 -/

theorem test_decode_cls : decodeWord 0b0000000011100000 = .ok .cls := by decide
theorem test_decode_ret : decodeWord 0b0000000011101110 = .ok .ret := by decide
theorem test_decode_jp : decodeWord 0b0001101010111100 = .ok (.jp 0xABC) := by decide
theorem test_decode_call : decodeWord 0b0010110010100001 = .ok (.call 0xCA1) := by decide
theorem test_decode_seImm : decodeWord 0b0011101000010010 = .ok (.seImm 0xA 0x12) := by decide
theorem test_decode_sneImm : decodeWord 0b0100010111110001 = .ok (.sneImm 5 0xF1) := by decide
theorem test_decode_seReg : decodeWord 0b0101101010110000 = .ok (.seReg 0xA 0xB) := by decide
theorem test_decode_ldImm : decodeWord 0b0110011110000011 = .ok (.ldImm 7 0x83) := by decide
theorem test_decode_addImm : decodeWord 0b0111110001011010 = .ok (.addImm 0xC 0x5A) := by decide
theorem test_decode_ldReg : decodeWord 0b1000000110100000 = .ok (.ldReg 1 0xA) := by decide
theorem test_decode_orReg : decodeWord 0b1000001010010001 = .ok (.orReg 2 9) := by decide
theorem test_decode_andReg : decodeWord 0b1000001110000010 = .ok (.andReg 3 8) := by decide
theorem test_decode_xorReg : decodeWord 0b1000010001110011 = .ok (.xorReg 4 7) := by decide
theorem test_decode_addReg : decodeWord 0b1000010101100100 = .ok (.addReg 5 6) := by decide
theorem test_decode_sub : decodeWord 0b1000011001010101 = .ok (.sub 6 5) := by decide
theorem test_decode_shr : decodeWord 0b1000011101000110 = .ok (.shr 7 4) := by decide
theorem test_decode_subn : decodeWord 0b1000100000110111 = .ok (.subn 8 3) := by decide
theorem test_decode_shl : decodeWord 0b1000100100101110 = .ok (.shl 9 2) := by decide
theorem test_decode_sneReg : decodeWord 0b1001111000010000 = .ok (.sneReg 0xE 1) := by decide
theorem test_decode_ldI : decodeWord 0b1010000100100011 = .ok (.ldI 0x123) := by decide
theorem test_decode_jpV0 : decodeWord 0b1011010001010110 = .ok (.jpV0 0x456) := by decide
theorem test_decode_rnd : decodeWord 0b1100111000111100 = .ok (.rnd 0xE 0x3C) := by decide
theorem test_decode_drw : decodeWord 0b1101000100101111 = .ok (.drw 1 2 15) := by decide
theorem test_decode_skp : decodeWord 0b1110011010011110 = .ok (.skp 6) := by decide
theorem test_decode_sknp : decodeWord 0b1110100110100001 = .ok (.sknp 9) := by decide
theorem test_decode_ldVxDt : decodeWord 0b1111001100000111 = .ok (.ldVxDt 3) := by decide
theorem test_decode_ldVxK : decodeWord 0b1111010000001010 = .ok (.ldVxK 4) := by decide
theorem test_decode_ldDtVx : decodeWord 0b1111010100010101 = .ok (.ldDtVx 5) := by decide
theorem test_decode_ldStVx : decodeWord 0b1111011000011000 = .ok (.ldStVx 6) := by decide
theorem test_decode_addI : decodeWord 0b1111011100011110 = .ok (.addI 7) := by decide
theorem test_decode_ldF : decodeWord 0b1111100000101001 = .ok (.ldF 8) := by decide
theorem test_decode_ldB : decodeWord 0b1111100100110011 = .ok (.ldB 9) := by decide
theorem test_decode_dump : decodeWord 0b1111101001010101 = .ok (.dump 0xA) := by decide
theorem test_decode_load : decodeWord 0b1111101101100101 = .ok (.load 0xB) := by decide

/-- Big-endian (R33): the byte at the lower address is the high half of the word; vector T8. -/
theorem test_decode_bytes : decode [0x12, 0x6A, 0xFF] = .ok (.jp 0x26A, [0xFF]) := by decide

/-- An odd byte alone is no instruction. -/
theorem test_decode_truncated : decode [0x12] = .error .truncated := by decide

theorem test_decodeTableWord : decodeTableWord 16 0x126A = some (.jp 0x26A) := by decide
theorem test_decodeTableWord_unsupported : decodeTableWord 16 0x0123 = none := by decide
theorem test_withFetchWord :
    nextIs (step (State.reset.withFetchWord 16 0x126A)) (fun t => t.pc == 0x26A) = true := by decide

/-! ### One Step each; the vector of 95_test_vectors.md is named -/

/-- G1. -/
theorem test_cls : nextIs (run (State.reset.setDisp (Vector.replicate 32 1)) 0x00E0)
    (fun t => t.disp[0] == 0 && t.disp[31] == 0 && t.pc == 0x202) = true := by decide
/-- F3: the return from depth 16. -/
theorem test_ret : nextIs (run (withDepth { State.reset with stack := State.reset.stack.set 15 0xABC } 16) 0x00EE)
    (fun t => t.pc == 0xABC && t.sp == 15) = true := by decide
/-- F2. -/
theorem test_ret_underflow : faultIs (run State.reset 0x00EE) .stackUnderflow = true := by decide
/-- F7: an odd target. -/
theorem test_jp : nextIs (run State.reset 0x1203) (fun t => t.pc == 0x203) = true := by decide
/-- F9: the sixteenth call. -/
theorem test_call : nextIs (run (withDepth State.reset 15) 0x2ABC)
    (fun t => t.pc == 0xABC && t.sp == 16 && t.stack[15] == 0x202) = true := by decide
/-- F10: the seventeenth. -/
theorem test_call_overflow : faultIs (run (withDepth State.reset 16) 0x2ABC) .stackOverflow = true := by decide
/-- F12, F13. -/
theorem test_seImm : nextIs (run (regs [(0xA, 0x12)]) 0x3A12) (fun t => t.pc == 0x204) = true := by decide
theorem test_seImm_differs : nextIs (run (regs [(0xA, 0x13)]) 0x3A12) (fun t => t.pc == 0x202) = true := by decide
/-- F15, F16. -/
theorem test_sneImm_equal : nextIs (run (regs [(0xA, 0x12)]) 0x4A12) (fun t => t.pc == 0x202) = true := by decide
theorem test_sneImm : nextIs (run State.reset 0x4A12) (fun t => t.pc == 0x204) = true := by decide
/-- F17, F18. -/
theorem test_seReg : nextIs (run (regs [(1, 0x7F), (2, 0x7F)]) 0x5120) (fun t => t.pc == 0x204) = true := by decide
theorem test_seReg_differs : nextIs (run (regs [(1, 0x7F), (2, 0x80)]) 0x5120) (fun t => t.pc == 0x202) = true := by
  decide
/-- A2: `VF` as an ordinary destination. -/
theorem test_ldImm : nextIs (run State.reset 0x6FAB) (fun t => t.reg 0xF == 0xAB) = true := by decide
/-- A4: wraps, no flag. -/
theorem test_addImm : nextIs (run (regs [(1, 0xFF)]) 0x7101) (fun t => t.reg 1 == 0 && t.reg 0xF == 0) = true := by
  decide
/-- A7. -/
theorem test_ldReg : nextIs (run (regs [(1, 0x11), (2, 0x22)]) 0x8120)
    (fun t => t.reg 1 == 0x22 && t.reg 2 == 0x22) = true := by decide
/-- A12: `VF` is not reset. -/
theorem test_orReg : nextIs (run (regs [(1, 0xF0), (2, 0x0F), (0xF, 1)]) 0x8121)
    (fun t => t.reg 1 == 0xFF && t.reg 0xF == 1) = true := by decide
/-- A13. -/
theorem test_andReg : nextIs (run (regs [(1, 0xCC), (2, 0xAA), (0xF, 1)]) 0x8122)
    (fun t => t.reg 1 == 0x88 && t.reg 0xF == 1) = true := by decide
/-- A14. -/
theorem test_xorReg : nextIs (run (regs [(1, 0xCC), (2, 0xAA), (0xF, 1)]) 0x8123)
    (fun t => t.reg 1 == 0x66 && t.reg 0xF == 1) = true := by decide
/-- A22. -/
theorem test_addReg : nextIs (run (regs [(1, 0xFF), (2, 0xFF)]) 0x8124)
    (fun t => t.reg 1 == 0xFE && t.reg 0xF == 1) = true := by decide
/-- A25: `VF` is the destination; the flag is written last. -/
theorem test_addReg_vf : nextIs (run (regs [(0xF, 1), (2, 2)]) 0x8F24) (fun t => t.reg 0xF == 0) = true := by decide
/-- A29. -/
theorem test_sub : nextIs (run (regs [(1, 3), (2, 5), (0xF, 1)]) 0x8125)
    (fun t => t.reg 1 == 0xFE && t.reg 0xF == 0) = true := by decide
/-- A30: equal operands give flag 0. -/
theorem test_sub_equal : nextIs (run (regs [(1, 5), (2, 5), (0xF, 1)]) 0x8125)
    (fun t => t.reg 1 == 0 && t.reg 0xF == 0) = true := by decide
/-- A38: `Vx` is shifted, not `Vy`. -/
theorem test_shr : nextIs (run (regs [(1, 0xFF), (2, 0)]) 0x8126)
    (fun t => t.reg 1 == 0x7F && t.reg 0xF == 1) = true := by decide
/-- A41: `VF` is the destination. -/
theorem test_shr_vf : nextIs (run (regs [(0xF, 2)]) 0x8F06) (fun t => t.reg 0xF == 0) = true := by decide
/-- A42. -/
theorem test_subn : nextIs (run (regs [(1, 3), (2, 5)]) 0x8127)
    (fun t => t.reg 1 == 2 && t.reg 0xF == 1) = true := by decide
/-- A45. -/
theorem test_subn_wraps : nextIs (run (regs [(1, 1), (2, 0)]) 0x8127)
    (fun t => t.reg 1 == 0xFF && t.reg 0xF == 0) = true := by decide
/-- A50. -/
theorem test_shl : nextIs (run (regs [(1, 0xFF), (2, 0)]) 0x812E)
    (fun t => t.reg 1 == 0xFE && t.reg 0xF == 1) = true := by decide
/-- A52: `VF` is the destination. -/
theorem test_shl_vf : nextIs (run (regs [(0xF, 0x40)]) 0x8F0E) (fun t => t.reg 0xF == 0) = true := by decide
/-- F21, F22. -/
theorem test_sneReg : nextIs (run (regs [(1, 1), (2, 2)]) 0x9120) (fun t => t.pc == 0x204) = true := by decide
theorem test_sneReg_equal : nextIs (run (regs [(1, 2), (2, 2)]) 0x9120) (fun t => t.pc == 0x202) = true := by decide
/-- A10. -/
theorem test_ldI : nextIs (run (State.reset.setI 0x123) 0xAFFF) (fun t => t.i == 0xFFF) = true := by decide
/-- F26, first Step: the sum is not reduced. -/
theorem test_jpV0 : nextIs (run (regs [(0, 0xFF)]) 0xBFFF) (fun t => t.pc == 0x10FE) = true := by decide
/-- F27: it is `V0` that is added, not `Vx`. -/
theorem test_jpV0_v0 : nextIs (run (regs [(0, 0xFF), (1, 7)]) 0xB100) (fun t => t.pc == 0x1FF) = true := by decide
/-- A53, with the drawn byte given. -/
theorem test_rnd : (State.reset.takeRandom 0xA7 1 0x0F).reg 1 = 0x07 := by decide
/-- A54: a mask of 0 gives 0 whatever is drawn, and the draw is made. -/
theorem test_rnd_mask_zero : nextIs (run (regs [(1, 0x55)]) 0xC100)
    (fun t => t.draws == State.reset.draws + 1 && t.pc == 0x202) = true := by decide
/-- G10: a collision. -/
theorem test_drw : nextIs (run (withData { regs [(1, 8), (2, 5)] with
      disp := State.reset.disp.set 5 0x0080000000000000 } 0x300 [0xFF]) 0xD121)
    (fun t => t.disp[5] == 0x007F000000000000 && t.reg 0xF == 1) = true := by decide
/-- G4: past column 56 the last pixel is lost. -/
theorem test_drw_clips : nextIs (run (withData (regs [(1, 0x39), (2, 0)]) 0x300 [0xFF]) 0xD121)
    (fun t => t.disp[0] == 0x7F && t.reg 0xF == 0) = true := by decide
/-- K9. -/
theorem test_skp : nextIs (run ((regs [(1, 0xF)]).setKey 15 true) 0xE19E) (fun t => t.pc == 0x204) = true := by decide
/-- K4. -/
theorem test_skp_invalid : faultIs (run (regs [(1, 0x10)]) 0xE19E) (.invalidKey 16) = true := by decide
/-- K6. -/
theorem test_sknp : nextIs (run ((regs [(1, 7)]).setKey 7 true) 0xE1A1) (fun t => t.pc == 0x202) = true := by decide
/-- K8. -/
theorem test_sknp_invalid : faultIs (run ((regs [(1, 0x17)]).setKey 7 true) 0xE1A1) (.invalidKey 23) = true := by decide
/-- K12: `dt` is read, not `st`. -/
theorem test_ldVxDt : nextIs (run ((regs [(3, 1)]).setSt 0x2A) 0xF307) (fun t => t.reg 3 == 0) = true := by decide
/-- K13. -/
theorem test_ldVxK : nextIs (run State.reset 0xF30A) (fun t => t.wait == some 3 && t.pc == 0x202) = true := by decide
/-- H13: the wake-up into `VF`. -/
theorem test_ldVxK_wake : ((transact (.keyDown 11) (State.reset.setWait (some 15))).2.reg 0xF,
    (transact (.keyDown 11) (State.reset.setWait (some 15))).2.wait) = (0x0B, none) := by decide
/-- K19. -/
theorem test_ldDtVx : nextIs (run (regs [(3, 0x2A)]) 0xF315) (fun t => t.dt == 0x2A && t.st == 0) = true := by decide
/-- K20. -/
theorem test_ldStVx : nextIs (run (regs [(3, 0x2A)]) 0xF318) (fun t => t.st == 0x2A && t.dt == 0) = true := by decide
/-- X1: past 0xFFF, `VF` untouched. -/
theorem test_addI : nextIs (run ((regs [(1, 5), (0xF, 7)]).setI 0xFFE) 0xF11E)
    (fun t => t.i == 0x1003 && t.reg 0xF == 7) = true := by decide
/-- X2: the sum wraps at 16 bits. -/
theorem test_addI_wraps : nextIs (run ((regs [(1, 2)]).setI 0xFFFF) 0xF11E) (fun t => t.i == 1) = true := by decide
/-- X7. -/
theorem test_ldF : nextIs (run (regs [(0, 0xF)]) 0xF029) (fun t => t.i == 0x4B) = true := by decide
/-- X9: the value is not masked. -/
theorem test_ldF_unreduced : nextIs (run (regs [(0, 0xFF)]) 0xF029) (fun t => t.i == 0x4FB) = true := by decide
/-- X12. -/
theorem test_ldB : nextIs (run ((regs [(0, 0xF2)]).setI 0x300) 0xF033)
    (fun t => t.byteAt 0x300 == 2 && t.byteAt 0x301 == 4 && t.byteAt 0x302 == 2) = true := by decide
/-- X17. -/
theorem test_ldB_outOfBounds : faultIs (run ((regs [(7, 0xFF)]).setI 0xFFE) 0xF733) (.outOfBounds (.mem 0x1000)) = true :=
  by decide
/-- X20: three registers, and `I` unchanged. -/
theorem test_dump : nextIs (run ((regs [(0, 0x11), (1, 0x22), (2, 0x33), (3, 0x44)]).setI 0x300) 0xF255)
    (fun t => t.byteAt 0x300 == 0x11 && t.byteAt 0x302 == 0x33 && t.byteAt 0x303 == 0 && t.i == 0x300) = true := by
  decide
/-- X24. -/
theorem test_dump_outOfBounds : faultIs (run ((regs [(0, 1), (1, 2)]).setI 0xFFF) 0xF155)
    (.outOfBounds (.mem 0x1000)) = true := by decide
/-- X26: registers above `x` stay. -/
theorem test_load : nextIs (run (withData (regs [(3, 0x99)]) 0x300 [0x11, 0x22, 0x33, 0x44]) 0xF265)
    (fun t => t.reg 0 == 0x11 && t.reg 2 == 0x33 && t.reg 3 == 0x99 && t.i == 0x300) = true := by decide
/-- X30. -/
theorem test_load_outOfBounds : faultIs (run (State.reset.setI 0xFF1) 0xFF65) (.outOfBounds (.mem 0x1000)) = true := by
  decide

/-- Glyph A of the default table (R22; vector X5 gives its address). -/
theorem test_defaultFont : (List.range 5).map (fun j => fontByte defaultFont (0x32 + j)) = [0xF0, 0x90, 0xF0, 0x90, 0x90] := by
  decide

/-- X28 on the byte at 0x000, with the default table as the claim's premise. -/
theorem test_load_glyph (h : UsesDefaultFont) : State.reset.byteAt 0x000 = 0xF0 := by
  show fontByte Config.font 0 = 0xF0
  rw [show Config.font = defaultFont from h]
  decide

/-- The codes of R170, 0 for no fault. -/
theorem test_faultCode : State.reset.faultCode = 0 ∧
    [Fault.unsupportedInstruction 0, .stackOverflow, .stackUnderflow, .outOfBounds (.mem 4096), .invalidKey 16].map
      (fun f => (State.reset.latch f).faultCode) = [1, 2, 3, 4, 5] := by decide

/-! ### States and operands that meet the hypotheses of the statements, at the boundaries of their clauses -/

theorem exists_next {r : Result} {p : State → Bool} (h : nextIs r p = true) : ∃ t, r = .next t ∧ p t = true := by
  cases r with
  | next t => exact ⟨t, rfl, h⟩
  | fault f => cases h
  | refused e => cases h

theorem eq_fault {r : Result} {f : Fault} (h : faultIs r f = true) : r = .fault f := by
  cases r with
  | next t => cases h
  | fault g => rw [show g = f by simpa [faultIs] using h]
  | refused e => cases h

/-- The step or instruction completes. -/
abbrev Runs (r : Result) : Prop := ∃ t, r = .next t

theorem runs {r : Result} (h : nextIs r (fun _ => true) = true) : Runs r :=
  let ⟨t, ht, _⟩ := exists_next h
  ⟨t, ht⟩

theorem witness_DecodeOfEncodeIsTheInstruction :
    (Instr.drw 15 15 15).wf = true ∧ (Instr.drw 0 0 0).wf = true ∧ Instr.cls.wf = true := by decide

theorem witness_EncodeOfDecodedWordIsTheWord :
    decodeWord 0x81A6 = .ok (.shr 1 0xA) ∧ decodeWord 0xDFFF = .ok (.drw 15 15 15) := by decide

/-- The clauses in order: a word that decodes, one that no row selects, one that a row selects. -/
theorem witness_DecoderAgreesWithTheOpcodeMap :
    decodeWord 0xFF65 = .ok (.load 15) ∧ (∀ r ∈ opcodeRows, r.selects 0x8AB8 = false) ∧
      ((⟨0x5000, 0xF00F⟩ : OpcodeRow) ∈ opcodeRows ∧ (⟨0x5000, 0xF00F⟩ : OpcodeRow).selects 0x5AB0 = true) := by decide

theorem witness_ShiftsNeitherReadNorWriteVy : ∃ x y : Reg, y ≠ x ∧ y ≠ regF := ⟨15, 0, by decide⟩

theorem witness_ResetValues : 0x4F < 80 ∧ 0x50 ≤ 0x50 := by decide

/-- The last byte of the last digit's glyph. -/
theorem witness_FontAddressPointsAtTheDigitsGlyph : ((regs [(0, 0xF)]).reg 0).toNat < 16 ∧ 4 < 5 := by decide

theorem inv_of_last_pc : State.Inv { State.reset with pc := 0x10FE, stack := Vector.replicate 16 4096 } :=
  ⟨by decide, by decide, by decide⟩

theorem witness_StepKeepsTheInvariant : ∃ s t : State, s.Inv ∧ step s = .next t := by
  obtain ⟨t, ht⟩ := runs (r := step ((State.reset.setPc 0xFFE).placeWord 0x6B34)) (by decide)
  exact ⟨_, t, ⟨by decide, by decide, by decide⟩, ht⟩

theorem witness_TransactionsKeepTheInvariant : ∃ s : State, s.Inv := ⟨_, inv_of_last_pc⟩

/-- At 0x200, and at 4094, the last address a fetch succeeds at. -/
theorem witness_StepRunsTheDecodedInstruction :
    ∀ s ∈ [State.reset.placeWord 0x6A12, (State.reset.setPc 4094).placeWord 0x6A12], s.fault = none ∧ s.wait = none ∧
      s.pc.toNat ≤ 4094 ∧
      decodeWord (joinBytes (s.byteAt s.pc.toNat) (s.byteAt (s.pc.toNat + 1))) = .ok (.ldImm 0xA 0x12) := by decide

/-- The three clauses, at 4094, 4095 and 4096, and an odd address. -/
theorem witness_FetchSucceedsExactlyUpTo4094 :
    ∀ s ∈ [State.reset.setPc 4094, State.reset.setPc 4095, State.reset.setPc 4096, State.reset.setPc 0x201],
      s.fault = none ∧ s.wait = none ∧ s.pc.toNat ∈ [4094, 4095, 4096, 0x201] := by decide

theorem witness_UnsupportedWordsFault : State.reset.fault = none ∧ State.reset.wait = none ∧
    State.reset.fetch = .ok 0x0000 ∧ ∀ r ∈ opcodeRows, r.selects 0x0000 = false := by decide

theorem witness_StepsWhileAwaitingAreNoOps :
    (State.reset.setWait (some 15)).fault = none ∧ (State.reset.setWait (some 15)).wait = some 15 := by decide

theorem witness_SelfJumpChangesNothing : ∃ s : State, s.fault = none ∧ s.wait = none ∧
    s.fetch = .ok (encode (.jp 0x200)) ∧ s.pc.toNat = (0x200 : Addr12).toNat :=
  ⟨State.reset.placeWord 0x1200, by decide⟩

/-- Bytes stored at 4094 and 4095, `pc` at the first of them. -/
theorem witness_StoresAreSeenByTheNextFetch : ∃ (s t : State) (x k q : Reg), exec (.dump x) s = .next t ∧ k ≤ x ∧
    t.pc.toNat = s.dataAddr k.val ∧ s.dataAddr k.val ≤ 4094 ∧ q ≤ x ∧ q.val = k.val + 1 := by
  obtain ⟨t, ht, hp⟩ := exists_next (r := exec (.dump 1) (((regs [(0, 0x12)]).setI 4094).setPc 4094))
    (p := fun t => t.pc.toNat == 4094) (by decide)
  exact ⟨_, t, 1, 0, 1, ht, by decide, (beq_iff_eq.mp hp).trans (by decide), by decide, by decide, by decide⟩

/-- A register the instruction does not write, and the byte just past the ones it stores. -/
theorem witness_InstructionsTouchOnlyWhatTheyWrite :
    (Runs (exec (.load 14) State.reset) ∧ ¬ writesReg (.load 14) 15) ∧
    (Runs (exec (.ldB 0) State.reset) ∧ ¬ storesAt (.ldB 0) State.reset 3) :=
  ⟨⟨runs (by decide), show ¬ ((15 : Reg) ≤ 14) by decide⟩, runs (by decide),
    show ¬ (State.reset.dataAddr 0 ≤ 3 ∧ 3 < State.reset.dataAddr 3) by decide⟩

theorem witness_FlagWritersAlwaysWriteZeroOrOne :
    (Runs (exec (.shr 15 0) State.reset) ∧ writesFlag (.shr 15 0) = true) ∧
    (Runs (exec (.load 14) State.reset) ∧ writesFlag (.load 14) = false ∧ ¬ writesReg (.load 14) regF) :=
  ⟨⟨runs (by decide), rfl⟩, runs (by decide), rfl, show ¬ ((15 : Reg) ≤ 14) by decide⟩

theorem witness_NoStepWritesAKeyLatch : Runs (step (State.reset.placeWord 0xE09E)) := runs (by decide)

theorem witness_InstructionsRaiseOnlyTheirOwnCause : exec .ret State.reset = .fault .stackUnderflow :=
  eq_fault (by decide)

/-- A next state with `st` written, and a fault. -/
theorem witness_NoInstructionReadsTheSoundTimer :
    Runs (exec (.ldStVx 1) State.reset) ∧ exec (.skp 1) (regs [(1, 16)]) = .fault (.invalidKey 16) :=
  ⟨runs (by decide), eq_fault (by decide)⟩

theorem witness_CallPushesAndJumps :
    (withDepth State.reset 0).sp.val < 16 ∧ (withDepth State.reset 15).sp.val < 16 ∧
      (0 < 16 ∧ 0 ≠ (withDepth State.reset 15).sp.val) ∧ (withDepth State.reset 16).sp.val = 16 := by decide

theorem witness_ReturnPopsTheNewestAddress : 0 < (withDepth State.reset 1).sp.val ∧
    0 < (withDepth State.reset 16).sp.val ∧ (withDepth State.reset 0).sp.val = 0 := by decide

theorem witness_CallThenReturnRestoresPc : Runs (exec (.call 0xABC) (withDepth State.reset 15)) ∧
    14 ≠ (withDepth State.reset 15).sp.val := ⟨runs (by decide), by decide⟩

/-- At the largest `pc`, with equal and different operands. -/
theorem witness_SkipsAdvancePcWhenTheirConditionHolds :
    (State.reset.setPc 0x10FE).pc.toNat ≤ 0x10FE ∧
    (State.reset.setPc 0x10FE).reg 1 = 0x00 ∧ (State.reset.setPc 0x10FE).reg 1 ≠ 0x01 ∧
      State.reset.reg 1 = State.reset.reg 2 ∧ (regs [(1, 0xFF)]).reg 1 ≠ (regs [(1, 0xFF)]).reg 2 := by decide

/-- Sums of 255 and of 256, and a destination that is not `VF`. -/
theorem witness_AddSetsSumAndCarry : (0xE : Reg) ≠ regF ∧
    ¬ (((regs [(1, 0xFF)]).reg 1).toNat + ((regs [(1, 0xFF)]).reg 2).toNat > 255) ∧
      ((regs [(1, 0xFF), (2, 1)]).reg 1).toNat + ((regs [(1, 0xFF), (2, 1)]).reg 2).toNat > 255 := by decide

/-- Equal operands and a difference of one. -/
theorem witness_SubtractsSetDifferenceAndStrictFlag : (0xE : Reg) ≠ regF ∧
    ¬ ((State.reset.reg 1).toNat > (State.reset.reg 2).toNat) ∧
      ((regs [(1, 1)]).reg 1).toNat > ((regs [(1, 1)]).reg 2).toNat := by decide

theorem witness_ShiftsHalveAndDoubleWithTheBitShiftedOut : (0xE : Reg) ≠ regF := by decide

theorem witness_RandomIsTheDrawUnderTheMask : (0 : Reg) ≠ 15 := by decide

/-- `n = 0` with coordinates that fit nowhere, and the last byte of memory drawn on the last row. -/
theorem witness_DrawXorsTheSprite :
    (∃ (s : State) (y : Reg) (n : Nat), n = 0 ∧ 4096 < s.i.toNat + n ∧ 32 < (s.reg y).toNat + n) ∧
    (∃ (s : State) (y : Reg) (n : Nat), n = 15 ∧ s.i.toNat + n = 4096 ∧ (s.reg y).toNat + n = 32) :=
  ⟨⟨(regs [(2, 0xFF)]).setI 0x1001, 2, 0, by decide⟩, ⟨(regs [(2, 17)]).setI 4081, 2, 15, by decide⟩⟩

theorem witness_CollisionIsALitPixelTurnedOff :
    Runs (exec (.drw 1 2 15) ((regs [(2, 17)]).setI 4081)) := runs (by decide)

theorem witness_PlacementPutsPixelsOrDropsThem : 0 < 64 ∧ 63 < 64 := by decide

/-- One byte past memory, one row past the display. -/
theorem witness_DrawOutOfBoundsFaults :
    (∃ (s : State) (n : Nat), 0 < n ∧ s.i.toNat + n = 4097) ∧
    (∃ (s : State) (y : Reg) (n : Nat), 0 < n ∧ s.i.toNat + n ≤ 4096 ∧ (s.reg y).toNat + n = 33) :=
  ⟨⟨State.reset.setI 4082, 15, by decide⟩, ⟨regs [(2, 18)], 2, 15, by decide⟩⟩

/-- Coordinates in ordinary registers, and the column in `VF`, which the first draw leaves at 0. -/
theorem witness_DrawingTwiceRestoresTheDisplay :
    (∃ s t : State, exec (.drw 1 2 15) s = .next t ∧ t.reg 1 = s.reg 1 ∧ t.reg 2 = s.reg 2) ∧
    (∃ s t : State, exec (.drw 15 2 15) s = .next t ∧ t.reg 15 = s.reg 15 ∧ t.reg 2 = s.reg 2) := by
  constructor
  · obtain ⟨t, ht, hp⟩ := exists_next (r := exec (.drw 1 2 15) ((regs [(2, 17)]).setI 4081))
      (p := fun t => t.reg 1 == 0 && t.reg 2 == 17) (by decide)
    rw [Bool.and_eq_true, beq_iff_eq, beq_iff_eq] at hp
    exact ⟨_, t, ht, hp.1, hp.2⟩
  · obtain ⟨t, ht, hp⟩ := exists_next (r := exec (.drw 15 2 15) ((regs [(2, 17)]).setI 4081))
      (p := fun t => t.reg 15 == 0 && t.reg 2 == 17) (by decide)
    rw [Bool.and_eq_true, beq_iff_eq, beq_iff_eq] at hp
    exact ⟨_, t, ht, hp.1, hp.2⟩

/-- Key 15 down, and not. -/
theorem witness_KeySkipsReadTheLatch :
    (∃ (s : State) (x : Reg) (h : (s.reg x).toNat < 16), s.pc.toNat ≤ 0x10FE ∧ s.key[(s.reg x).toNat] = true) ∧
    (∃ (s : State) (x : Reg) (h : (s.reg x).toNat < 16), s.pc.toNat ≤ 0x10FE ∧ s.key[(s.reg x).toNat] = false) :=
  ⟨⟨(regs [(1, 15)]).setKey 15 true, 1, by decide, by decide⟩, ⟨regs [(1, 15)], 1, by decide, by decide⟩⟩

theorem witness_KeySkipsFaultAboveFifteen : 15 < ((regs [(1, 16)]).reg 1).toNat := by decide

theorem witness_KeyDownEndsTheWait : ∃ s : State, s.fault = none ∧ s.wait = none ∧ s.nextInstr = .ok (.ldVxK 15) :=
  ⟨State.reset.placeWord 0xFF0A, by decide⟩

theorem witness_BcdStoresThreeDigits :
    (State.reset.setI 4093).i.toNat ≤ 4093 ∧ 4093 < (State.reset.setI 4094).i.toNat := by decide

theorem witness_DumpStoresRegistersAscending :
    (State.reset.setI 4080).i.toNat + (15 : Reg).val ≤ 4095 ∧ 4095 < (State.reset.setI 4081).i.toNat + (15 : Reg).val := by
  decide

theorem witness_LoadReadsRegistersAscending :
    (State.reset.setI 4095).i.toNat + (0 : Reg).val ≤ 4095 ∧ 4095 < (State.reset.setI 4095).i.toNat + (1 : Reg).val := by
  decide

theorem witness_LoadAfterDumpRestoresRegisters : Runs (exec (.dump 15) (State.reset.setI 4080)) := runs (by decide)

theorem witness_LoadCopiesTheImage : (∃ bytes : List Byte, bytes.length = 3584) ∧
    ∃ bytes : List Byte, bytes.length = 3585 :=
  ⟨⟨_, List.length_replicate (a := 0)⟩, ⟨_, List.length_replicate (a := 0)⟩⟩

theorem witness_TicksCountBothTimersDown : (State.reset.setDt 0xFF).fault = none := by decide

theorem witness_KeyEventsSetAndClearTheLatch : 15 < 16 ∧ State.reset.fault = none ∧ State.reset.wait = none := by decide

theorem witness_KeyEventsFaultAboveFifteen : 15 < 16 ∧ State.reset.fault = none := by decide

/-- The Step that raises, and a latched fault with the transactions it turns away. -/
theorem witness_FirstFaultIsLatched :
    (State.reset.fault = none ∧ step State.reset = .fault (.unsupportedInstruction 0)) ∧
    (State.reset.latch .stackOverflow).fault = some .stackOverflow ∧
      ∀ t ∈ [Transaction.step, .tick, .keyDown 0, .keyUp 16],
        t = .step ∨ t = .tick ∨ (∃ k, t = .keyDown k) ∨ (∃ k, t = .keyUp k) :=
  ⟨⟨rfl, eq_fault (by decide)⟩, rfl, by simp⟩

theorem witness_TimersOnlyRiseByTheirLoads :
    (∃ (tr : Transaction) (s : State), s.dt.toNat < (transact tr s).2.dt.toNat) ∧
    (∃ (tr : Transaction) (s : State), s.st.toNat < (transact tr s).2.st.toNat) :=
  ⟨⟨.step, (regs [(1, 0xFF)]).placeWord 0xF115, by decide⟩, ⟨.step, (regs [(1, 0xFF)]).placeWord 0xF118, by decide⟩⟩

theorem witness_DisplayChangesOnlyByClearAndDraw :
    (∃ (tr : Transaction) (s : State), (transact tr s).2.disp ≠ s.disp) ∧ State.reset.fault = none :=
  ⟨⟨.step, (withData State.reset 0x300 [0xFF]).placeWord 0xD001, by decide⟩, rfl⟩

end Sys2Proof.Tests
end

section
/-! PROOFS. What an instruction leaves unchanged, field by field, and the invariant of the state (10_state.md R10 to
R28): the obligations about the state elements. -/

namespace Sys2Proof.Machine

/-! ### The exact frame

`Unchanged` compares memory as it is read. The canonical form of memory needs the list itself, so frames are proved for
the fields as they stand, and `Agree.sameExcept` gives the weaker form. -/

/-- The field that holds element `e` is the same in `s` and `t`. -/
def Elem.SameField (e : Elem) (s t : State) : Prop :=
  match e with
  | .v => t.v = s.v
  | .i => t.i = s.i
  | .pc => t.pc = s.pc
  | .stack => t.stack = s.stack
  | .sp => t.sp = s.sp
  | .mem => t.mem = s.mem
  | .dt => t.dt = s.dt
  | .st => t.st = s.st
  | .key => t.key = s.key
  | .disp => t.disp = s.disp
  | .wait => t.wait = s.wait
  | .fault => t.fault = s.fault
  | .draws => t.draws = s.draws

/-- Every field outside `es` is the same in `s` and `t`. -/
def Agree (es : List Elem) (s t : State) : Prop := ∀ e, e ∉ es → e.SameField s t

theorem Elem.SameField.unchanged {e : Elem} {s t : State} (h : e.SameField s t) : Unchanged e s t := by
  cases e with
  | v => exact fun r => congrArg (fun v : Vector Byte 16 => v[r.val]) h
  | mem => exact fun a => congrArg (Memory.read · a) h
  | _ => exact h

theorem Agree.sameExcept {es : List Elem} {s t : State} (h : Agree es s t) : SameExcept es s t :=
  fun e he => (h e he).unchanged

theorem Agree.reg {es : List Elem} {s t : State} (h : Agree es s t) (hv : .v ∉ es) (r : Reg) : t.reg r = s.reg r :=
  (h .v hv).unchanged r

theorem Agree.byteAt {es : List Elem} {s t : State} (h : Agree es s t) (hm : .mem ∉ es) (a : Nat) :
    t.byteAt a = s.byteAt a :=
  (h .mem hm).unchanged a

theorem Agree.refl (es : List Elem) (s : State) : Agree es s s := fun e _ => by cases e <;> rfl

theorem Agree.trans {es : List Elem} {s t u : State} (h : Agree es s t) (h' : Agree es t u) : Agree es s u := by
  intro e he
  have h1 := h e he
  have h2 := h' e he
  cases e <;> exact h2.trans h1

theorem Agree.mono {es fs : List Elem} {s t : State} (h : Agree es s t) (hsub : es ⊆ fs) : Agree fs s t :=
  fun e he => h e fun h' => he (hsub h')

theorem agree_setReg (s : State) (r : Reg) (b : Byte) : Agree [.v] s (s.setReg r b) := by
  intro e he; cases e <;> simp [Elem.SameField] at he ⊢

theorem agree_setI (s : State) (w : Word) : Agree [.i] s (s.setI w) := by
  intro e he; cases e <;> simp [Elem.SameField] at he ⊢

theorem agree_setPc (s : State) (w : Word) : Agree [.pc] s (s.setPc w) := by
  intro e he; cases e <;> simp [Elem.SameField] at he ⊢

theorem agree_skipIf (s : State) (c : Bool) : Agree [.pc] s (s.skipIf c) := by
  rw [State.skipIf_eq]; exact agree_setPc s _

theorem agree_setDt (s : State) (b : Byte) : Agree [.dt] s (s.setDt b) := by
  intro e he; cases e <;> simp [Elem.SameField] at he ⊢

theorem agree_setSt (s : State) (b : Byte) : Agree [.st] s (s.setSt b) := by
  intro e he; cases e <;> simp [Elem.SameField] at he ⊢

theorem agree_setDisp (s : State) (d : Vector Row 32) : Agree [.disp] s (s.setDisp d) := by
  intro e he; cases e <;> simp [Elem.SameField] at he ⊢

theorem agree_setWait (s : State) (w : Option Reg) : Agree [.wait] s (s.setWait w) := by
  intro e he; cases e <;> simp [Elem.SameField] at he ⊢

theorem agree_setMem (s : State) (m : Memory) : Agree [.mem] s (s.setMem m) := by
  intro e he; cases e <;> simp [Elem.SameField] at he ⊢

theorem agree_countDraw (s : State) : Agree [.draws] s s.countDraw := by
  intro e he; cases e <;> simp [Elem.SameField] at he ⊢

theorem agree_push {s t : State} (h : s.push = .ok t) : Agree [.stack, .sp] s t := by
  obtain ⟨_, rfl⟩ := State.push_inv h
  intro e he; cases e <;> simp [Elem.SameField] at he ⊢

theorem agree_pop {s t : State} (h : s.pop = .ok t) : Agree [.pc, .sp] s t := by
  obtain ⟨_, rfl⟩ := State.pop_inv h
  intro e he; cases e <;> simp [Elem.SameField] at he ⊢

theorem agree_writeWithFlag (s : State) (x : Reg) (r : Byte) (c : Bool) : Agree [.v] s (s.writeWithFlag x r c) :=
  (agree_setReg s x r).trans (agree_setReg _ regF _)

/-! ### What an instruction that may fault does when it completes -/

theorem conclude_next {e : Except Fault State} {t : State} (h : conclude e = .next t) : e = .ok t := by
  cases e with
  | ok s => cases h; rfl
  | error f => cases h

theorem execCall_inv {nnn : Addr12} {s t : State} (h : execCall nnn s = .next t) :
    ∃ u, s.push = .ok u ∧ t = u.setPc (target nnn) := by
  unfold execCall at h
  split at h
  · cases h
  · cases h; exact ⟨_, ‹_›, rfl⟩

theorem execDrw_inv {x y : Reg} {n : Nat} {s t : State} (h : execDrw x y n s = .next t) :
    ∃ d c, t = (s.setDisp d).setReg regF (flagByte c) := by
  unfold execDrw at h
  split at h
  · cases h
  · cases h; exact ⟨_, _, rfl⟩

theorem execSkp_inv {x : Reg} {s t : State} (h : execSkp x s = .next t) : ∃ c, t = s.skipIf c := by
  unfold execSkp at h
  split at h
  · cases h
  · cases h; exact ⟨_, rfl⟩

theorem execSknp_inv {x : Reg} {s t : State} (h : execSknp x s = .next t) : ∃ c, t = s.skipIf c := by
  unfold execSknp at h
  split at h
  · cases h
  · cases h; exact ⟨_, rfl⟩

/-- Everything a run of stores that completes does: all its addresses are in memory, and it is a copy. -/
theorem State.storeBytes_inv {bs : List Byte} {a : Nat} {s t : State} (h : State.storeBytes bs a s = .ok t) :
    (bs ≠ [] → a + bs.length ≤ 4096) ∧ t = s.setMem (Memory.copy bs a s.mem) := by
  by_cases hb : bs = []
  · subst hb
    cases h
    exact ⟨fun h => absurd rfl h, rfl⟩
  · by_cases hfit : a + bs.length ≤ 4096
    · rw [State.storeBytes_ok bs a s hfit] at h
      cases h
      exact ⟨fun _ => hfit, rfl⟩
    · rw [State.storeBytes_error bs a s (by omega) hb] at h
      cases h

/-- A run of loads that completes changes the listed registers at most. -/
theorem State.loadRegs_inv {rs : List Reg} {s t : State} (h : State.loadRegs rs s = .ok t) :
    Agree [.v] s t ∧ ∀ q, q ∉ rs → t.reg q = s.reg q := by
  induction rs generalizing s with
  | nil => cases h; exact ⟨.refl _ _, fun _ _ => rfl⟩
  | cons r rs ih =>
    unfold State.loadRegs at h
    split at h
    · cases h
    · obtain ⟨hframe, hregs⟩ := ih h
      refine ⟨(agree_setReg s r _).trans hframe, fun q hq => ?_⟩
      obtain ⟨hqr, hqrs⟩ := not_or.mp (mt List.mem_cons.mpr hq)
      exact (hregs q hqrs).trans (State.reg_setReg_ne s _ hqr)

/-- The bytes that the two storing instructions write, from `I` up (45_index_memory.md R142, R143). -/
def storedBytes (i : Instr) (s : State) : List Byte :=
  match i with
  | .ldB x => [hundreds (s.reg x), tens (s.reg x), ones (s.reg x)]
  | .dump x => (regsUpTo x).map s.reg
  | _ => []

/-- An instruction that may write memory is a run of stores from `I` up. -/
theorem exec_eq_storeBytes {i : Instr} (s : State) (hi : .mem ∈ writes i) :
    exec i s = conclude (State.storeBytes (storedBytes i s) (s.dataAddr 0) s) := by
  cases i with
  | ldB | dump => rfl
  | _ => simp [writes] at hi

/-- Everything a storing instruction that completes does. -/
theorem exec_stores_inv {i : Instr} {s t : State} (hi : .mem ∈ writes i) (h : exec i s = .next t) :
    (storedBytes i s ≠ [] → s.dataAddr 0 + (storedBytes i s).length ≤ 4096) ∧
      t = s.setMem (Memory.copy (storedBytes i s) (s.dataAddr 0) s.mem) :=
  State.storeBytes_inv (conclude_next (exec_eq_storeBytes s hi ▸ h))

/-- The exact frame of every instruction (R28): a field that the table does not name is the same. -/
theorem exec_agree {i : Instr} {s t : State} (h : exec i s = .next t) : Agree (writes i) s t := by
  cases i with
  | cls => cases h; exact agree_setDisp _ _
  | ret => exact agree_pop (conclude_next h)
  | call =>
    obtain ⟨u, hu, rfl⟩ := execCall_inv h
    exact ((agree_push hu).mono (by simp [writes])).trans ((agree_setPc _ _).mono (by simp [writes]))
  | jp | jpV0 => cases h; exact agree_setPc _ _
  | seImm | sneImm | seReg | sneReg => cases h; exact agree_skipIf _ _
  | skp => obtain ⟨c, rfl⟩ := execSkp_inv h; exact agree_skipIf _ _
  | sknp => obtain ⟨c, rfl⟩ := execSknp_inv h; exact agree_skipIf _ _
  | ldImm | addImm | ldReg | orReg | andReg | xorReg | ldVxDt => cases h; exact agree_setReg _ _ _
  | addReg | sub | shr | subn | shl => cases h; exact agree_writeWithFlag _ _ _ _
  | rnd =>
    cases h
    exact ((agree_countDraw _).mono (by simp [writes])).trans ((agree_setReg _ _ _).mono (by simp [writes]))
  | drw =>
    obtain ⟨d, c, rfl⟩ := execDrw_inv h
    exact ((agree_setDisp _ _).mono (by simp [writes])).trans ((agree_setReg _ _ _).mono (by simp [writes]))
  | load => exact (State.loadRegs_inv (conclude_next h)).1
  | ldI | addI | ldF => cases h; exact agree_setI _ _
  | ldVxK => cases h; exact agree_setWait _ _
  | ldDtVx => cases h; exact agree_setDt _ _
  | ldStVx => cases h; exact agree_setSt _ _
  | ldB | dump => obtain ⟨-, rfl⟩ := exec_stores_inv (by simp [writes]) h; exact agree_setMem _ _

/-! ### Which instructions write an element -/

theorem v_mem_writes_of_writesReg {i : Instr} {r : Reg} (h : writesReg i r) : .v ∈ writes i := by
  cases i <;> simp [writesReg, writes] at h ⊢

theorem key_not_mem_writes (i : Instr) : .key ∉ writes i := by
  cases i <;> simp [writes]

theorem stack_mem_writes {i : Instr} (h : .stack ∈ writes i) : ∃ nnn, i = .call nnn := by
  cases i <;> simp [writes] at h ⊢

theorem dt_mem_writes {i : Instr} (h : .dt ∈ writes i) : ∃ x, i = .ldDtVx x := by
  cases i <;> simp [writes] at h ⊢

theorem st_mem_writes {i : Instr} (h : .st ∈ writes i) : ∃ x, i = .ldStVx x := by
  cases i <;> simp [writes] at h ⊢

theorem disp_mem_writes {i : Instr} (h : .disp ∈ writes i) : i = .cls ∨ ∃ x y n, i = .drw x y n := by
  cases i <;> simp [writes] at h ⊢

/-! ### The invariant (R14, R15) -/

/-- Settles O8: nothing is listed in memory, `pc` is 0x200 and every stack entry is 0. -/
theorem invariantHoldsAtReset : Obligations.InvariantHoldsAtReset := by
  refine ⟨Memory.wf_nil, by decide, fun k hk => ?_⟩
  simp [State.reset]

/-- An instruction keeps the canonical form of memory (log 8): it stores inside memory or not at all. -/
theorem exec_mem_wf {i : Instr} {s t : State} (h : exec i s = .next t) (hm : Memory.wf s.mem = true) :
    Memory.wf t.mem = true := by
  by_cases hi : .mem ∈ writes i
  · obtain ⟨hfit, rfl⟩ := exec_stores_inv hi h
    by_cases hb : storedBytes i s = []
    · simpa [hb, Memory.copy] using hm
    · exact Memory.wf_copy _ _ _ hm (hfit hb)
  · have hmem : t.mem = s.mem := exec_agree h .mem hi
    rwa [hmem]

/-- The return addresses stay at most 4096 when `pc`, which CALL saves, is (R15). -/
theorem exec_stack_le {i : Instr} {s t : State} (h : exec i s = .next t) (hpc : s.pc.toNat ≤ 4096)
    (hst : ∀ (k : Nat) (hk : k < 16), s.stack[k].toNat ≤ 4096) (k : Nat) (hk : k < 16) :
    t.stack[k].toNat ≤ 4096 := by
  by_cases hi : .stack ∈ writes i
  · obtain ⟨nnn, rfl⟩ := stack_mem_writes hi
    obtain ⟨u, hu, rfl⟩ := execCall_inv h
    obtain ⟨hs, rfl⟩ := State.push_inv hu
    simp only [State.setPc_stack, Vector.getElem_set]
    split
    · exact hpc
    · exact hst k hk
  · have hstack : t.stack = s.stack := exec_agree h .stack hi
    simpa [hstack] using hst k hk

theorem toNat_target (nnn : Addr12) : (target nnn).toNat = nnn.toNat :=
  BitVec.toNat_setWidth_of_le (by omega)

theorem toNat_widen (b : Byte) : (widen b).toNat = b.toNat :=
  BitVec.toNat_setWidth_of_le (by omega)

theorem toNat_add_two {w : Word} (h : w.toNat ≤ 4096) : (w + 2).toNat = w.toNat + 2 := by
  bv_omega

theorem skipIf_pc_le {s : State} (c : Bool) (hpc : s.pc.toNat ≤ 4096) : (s.skipIf c).pc.toNat ≤ 0x10FE := by
  rw [State.skipIf_pc]
  split
  · rw [toNat_add_two hpc]; omega
  · omega

/-- The bound of R14: a fetch leaves `pc` at most 4096, a skip adds 2, a return address is at most 4096, and the
furthest jump is JP V0,nnn to 0xFFF + 0xFF. -/
theorem exec_pc_le {i : Instr} {s t : State} (h : exec i s = .next t) (hpc : s.pc.toNat ≤ 4096)
    (hst : ∀ (k : Nat) (hk : k < 16), s.stack[k].toNat ≤ 4096) : t.pc.toNat ≤ 0x10FE := by
  by_cases hi : .pc ∈ writes i
  · cases i with
    | ret =>
      obtain ⟨hsp, rfl⟩ := State.pop_inv (conclude_next h)
      exact (hst (s.sp.val - 1) (by omega)).trans (by decide)
    | jp nnn =>
      cases h
      have := nnn.isLt
      simp only [State.setPc_pc, toNat_target]
      omega
    | call nnn =>
      obtain ⟨u, -, rfl⟩ := execCall_inv h
      have := nnn.isLt
      simp only [State.setPc_pc, toNat_target]
      omega
    | jpV0 nnn =>
      cases h
      have := nnn.isLt
      have := (s.reg 0).isLt
      simp only [State.setPc_pc, BitVec.toNat_add, toNat_target, toNat_widen]
      omega
    | seImm | sneImm | seReg | sneReg => cases h; exact skipIf_pc_le _ hpc
    | skp => obtain ⟨c, rfl⟩ := execSkp_inv h; exact skipIf_pc_le c hpc
    | sknp => obtain ⟨c, rfl⟩ := execSknp_inv h; exact skipIf_pc_le c hpc
    | _ => simp [writes] at hi
  · have hsame : t.pc = s.pc := exec_agree h .pc hi
    rw [hsame]
    omega

/-- The fetch advance ends at most at 4096 (R73, R74). -/
theorem advance_pc_le {s : State} {i : Instr} (hi : s.nextInstr = .ok i) : s.advance.pc.toNat ≤ 4096 := by
  have hpc := (State.nextInstr_inv hi).1
  rw [State.advance_pc, toNat_add_two (by omega)]
  omega

/-- Settles O9: an idle Step changes nothing, and an instruction starts from an advanced `pc` of at most 4096, from
which it keeps each part of the invariant. -/
theorem stepKeepsTheInvariant : Obligations.StepKeepsTheInvariant := by
  rintro s t ⟨hm, hpc, hst⟩ h
  obtain ⟨-, ⟨-, rfl⟩ | ⟨-, i, hi, he⟩⟩ := step_inv h
  · exact ⟨hm, hpc, hst⟩
  · have hadv := advance_pc_le hi
    exact ⟨exec_mem_wf he hm, exec_pc_le he hadv hst, exec_stack_le he hadv hst⟩

/-! ### What an instruction writes (R12, R20, R28) -/

theorem reg_writeWithFlag_ne (s : State) {x r : Reg} (b : Byte) (c : Bool) (hx : r ≠ x) (hf : r ≠ regF) :
    (s.writeWithFlag x b c).reg r = s.reg r := by
  rw [State.writeWithFlag_eq, State.reg_setReg_ne _ _ hf, State.reg_setReg_ne _ _ hx]

theorem exec_reg_frame {i : Instr} {s t : State} (h : exec i s = .next t) (r : Reg) (hr : ¬ writesReg i r) :
    t.reg r = s.reg r := by
  by_cases hi : .v ∈ writes i
  · cases i with
    | ldImm | addImm | ldReg | orReg | andReg | xorReg | ldVxDt => cases h; exact State.reg_setReg_ne _ _ hr
    | rnd => cases h; exact State.reg_setReg_ne _ _ hr
    | addReg | sub | shr | subn | shl =>
      cases h
      obtain ⟨hx, hf⟩ := not_or.mp hr
      exact reg_writeWithFlag_ne s _ _ hx hf
    | drw => obtain ⟨d, c, rfl⟩ := execDrw_inv h; exact State.reg_setReg_ne _ _ hr
    | load x => exact (State.loadRegs_inv (conclude_next h)).2 r (mt (mem_regsUpTo x r).mp hr)
    | _ => simp [writes] at hi
  · exact (exec_agree h).reg hi r

/-- The stored bytes lie at the addresses `storesAt` names. -/
theorem storesAt_of_mem_range {i : Instr} {s : State} {a : Nat} (hi : .mem ∈ writes i) (h1 : s.dataAddr 0 ≤ a)
    (h2 : a < s.dataAddr 0 + (storedBytes i s).length) : storesAt i s a := by
  cases i with
  | ldB => exact ⟨h1, h2⟩
  | dump x =>
    simp only [storedBytes, List.length_map, length_regsUpTo, State.dataAddr] at h2
    exact ⟨h1, by simp only [State.dataAddr]; omega⟩
  | _ => simp [writes] at hi

theorem exec_byteAt_frame {i : Instr} {s t : State} (h : exec i s = .next t) (a : Nat) (ha : ¬ storesAt i s a) :
    t.byteAt a = s.byteAt a := by
  by_cases hi : .mem ∈ writes i
  · obtain ⟨-, rfl⟩ := exec_stores_inv hi h
    rw [State.byteAt_setMem, Memory.read_copy, dif_neg fun ⟨h1, h2⟩ => ha (storesAt_of_mem_range hi h1 h2)]
    rfl
  · exact (exec_agree h).byteAt hi a

/-- Settles O18, from the exact frame and the frames of the registers and of the bytes. -/
theorem instructionsTouchOnlyWhatTheyWrite : Obligations.InstructionsTouchOnlyWhatTheyWrite :=
  fun _ _ _ h => ⟨(exec_agree h).sameExcept, exec_reg_frame h, exec_byteAt_frame h⟩

theorem flagByte_eq (c : Bool) : flagByte c = 0 ∨ flagByte c = 1 := by
  cases c <;> simp [flagByte]

/-- Whatever came before, a state whose last write is a flag to `VF` has 0 or 1 there (R104, D11). -/
theorem reg_regF_of_flag (s : State) (c : Bool) :
    (s.setReg regF (flagByte c)).reg regF = 0 ∨ (s.setReg regF (flagByte c)).reg regF = 1 := by
  rw [State.reg_setReg_same]
  exact flagByte_eq c

/-- Settles O19: each of the six flag writers writes the flag last, and the register frame gives the others. -/
theorem flagWritersAlwaysWriteZeroOrOne : Obligations.FlagWritersAlwaysWriteZeroOrOne := by
  refine fun i s t h => ⟨fun hi => ?_, fun _ => exec_reg_frame h regF⟩
  cases i with
  | addReg | sub | shr | subn | shl => cases h; exact reg_regF_of_flag _ _
  | drw => obtain ⟨d, c, rfl⟩ := execDrw_inv h; exact reg_regF_of_flag _ _
  | _ => cases hi

/-- Settles O20: no row of the table names the key latches. -/
theorem noStepWritesAKeyLatch : Obligations.NoStepWritesAKeyLatch := by
  intro s t h
  obtain ⟨-, ⟨-, rfl⟩ | ⟨-, i, -, he⟩⟩ := step_inv h
  · rfl
  · exact exec_agree he .key (key_not_mem_writes i)

/-! ### The sound timer is not read (R19)

Each operation that may fault commutes with a write to `st`. Two runs are then compared after `st` is forgotten in what
they answer, which leaves LD ST,Vx no case of its own. -/

/-- A result with the sound timer of its next state, if it has one, set to 0. -/
def forgetSt : Result → Result
  | .next t => .next (t.setSt 0)
  | .fault f => .fault f
  | .refused r => .refused r

theorem push_setSt (s : State) (b : Byte) : (s.setSt b).push = s.push.map (·.setSt b) := by
  by_cases hs : s.sp.val < 16
  · rw [State.push_ok s hs, State.push_ok (s.setSt b) hs]; rfl
  · have hfull : s.sp.val = 16 := by omega
    rw [State.push_full s hfull, State.push_full (s.setSt b) hfull]; rfl

theorem pop_setSt (s : State) (b : Byte) : (s.setSt b).pop = s.pop.map (·.setSt b) := by
  by_cases hs : 0 < s.sp.val
  · rw [State.pop_ok s hs, State.pop_ok (s.setSt b) hs]; rfl
  · have hempty : s.sp.val = 0 := by omega
    rw [State.pop_empty s hempty, State.pop_empty (s.setSt b) hempty]; rfl

theorem storeBytes_setSt (bs : List Byte) (a : Nat) (s : State) (b : Byte) :
    State.storeBytes bs a (s.setSt b) = (State.storeBytes bs a s).map (·.setSt b) := by
  by_cases hb : bs = []
  · subst hb; rfl
  · by_cases hfit : a + bs.length ≤ 4096
    · rw [State.storeBytes_ok bs a _ hfit, State.storeBytes_ok bs a _ hfit]; rfl
    · rw [State.storeBytes_error bs a _ (by omega) hb, State.storeBytes_error bs a _ (by omega) hb]; rfl

theorem memRead_dataAddr_setSt (s : State) (b : Byte) (k : Nat) :
    (s.setSt b).memRead ((s.setSt b).dataAddr k) = s.memRead (s.dataAddr k) := rfl

theorem loadRegs_setSt (rs : List Reg) (s : State) (b : Byte) :
    State.loadRegs rs (s.setSt b) = (State.loadRegs rs s).map (·.setSt b) := by
  induction rs generalizing s with
  | nil => rfl
  | cons r rs ih =>
    simp only [State.loadRegs, memRead_dataAddr_setSt]
    cases s.memRead (s.dataAddr r.val) with
    | error f => rfl
    | ok x => exact ih (s.setReg r x)

theorem blit_setSt (s : State) (b : Byte) (vx vy k r : Nat) (d : Vector Row 32) (c : Bool) :
    (s.setSt b).blit vx vy k r d c = s.blit vx vy k r d c := by
  induction k generalizing r d c with
  | zero => rfl
  | succ k ih => simp only [State.blit, memRead_dataAddr_setSt, ih]

theorem forgetSt_conclude_map (e : Except Fault State) (b : Byte) :
    forgetSt (conclude (e.map (·.setSt b))) = forgetSt (conclude e) := by
  cases e <;> rfl

theorem forgetSt_skipIf (s : State) (b : Byte) (c : Bool) :
    forgetSt (.next ((s.setSt b).skipIf c)) = forgetSt (.next (s.skipIf c)) := by
  cases c <;> rfl

theorem forgetSt_execCall (nnn : Addr12) (s : State) (b : Byte) :
    forgetSt (execCall nnn (s.setSt b)) = forgetSt (execCall nnn s) := by
  rw [execCall, execCall, push_setSt]
  cases s.push <;> rfl

theorem forgetSt_execDrw (x y : Reg) (n : Nat) (s : State) (b : Byte) :
    forgetSt (execDrw x y n (s.setSt b)) = forgetSt (execDrw x y n s) := by
  simp only [execDrw, blit_setSt, State.reg_setSt, State.setSt_disp]
  cases s.blit (s.reg x).toNat (s.reg y).toNat n 0 s.disp false <;> rfl

theorem keyLatch_setSt (s : State) (b : Byte) (k : Nat) : (s.setSt b).keyLatch k = s.keyLatch k := rfl

theorem forgetSt_execSkp (x : Reg) (s : State) (b : Byte) :
    forgetSt (execSkp x (s.setSt b)) = forgetSt (execSkp x s) := by
  simp only [execSkp, State.reg_setSt, keyLatch_setSt]
  cases s.keyLatch (s.reg x).toNat with
  | error f => rfl
  | ok down => exact forgetSt_skipIf s b down

theorem forgetSt_execSknp (x : Reg) (s : State) (b : Byte) :
    forgetSt (execSknp x (s.setSt b)) = forgetSt (execSknp x s) := by
  simp only [execSknp, State.reg_setSt, keyLatch_setSt]
  cases s.keyLatch (s.reg x).toNat with
  | error f => rfl
  | ok down => exact forgetSt_skipIf s b (!down)

/-- No instruction's answer depends on `st`, but for `st` itself. -/
theorem forgetSt_exec_setSt (i : Instr) (s : State) (b : Byte) :
    forgetSt (exec i (s.setSt b)) = forgetSt (exec i s) := by
  cases i with
  | ret => exact (congrArg (forgetSt ∘ conclude) (pop_setSt s b)).trans (forgetSt_conclude_map _ b)
  | call nnn => exact forgetSt_execCall nnn s b
  | seImm | sneImm | seReg | sneReg => exact forgetSt_skipIf s b _
  | drw x y n => exact forgetSt_execDrw x y n s b
  | skp x => exact forgetSt_execSkp x s b
  | sknp x => exact forgetSt_execSknp x s b
  | ldB | dump =>
    exact (congrArg (forgetSt ∘ conclude) (storeBytes_setSt _ _ s b)).trans (forgetSt_conclude_map _ b)
  | load => exact (congrArg (forgetSt ∘ conclude) (loadRegs_setSt _ s b)).trans (forgetSt_conclude_map _ b)
  | _ => rfl

theorem forgetSt_eq_next {r : Result} {t : State} (h : forgetSt r = forgetSt (.next t)) :
    ∃ u, r = .next u ∧ u.setSt 0 = t.setSt 0 := by
  cases r with
  | next u => exact ⟨u, rfl, Host.Outcome.next.inj h⟩
  | fault | refused => cases h

theorem forgetSt_eq_fault {r : Result} {f : Fault} (h : forgetSt r = forgetSt (.fault f)) : r = .fault f := by
  cases r with
  | fault g => exact h
  | next | refused => cases h

/-- Settles O22: the two outcomes are the same once `st` is forgotten. -/
theorem noInstructionReadsTheSoundTimer : Obligations.NoInstructionReadsTheSoundTimer := by
  intro i s b
  have hsame := forgetSt_exec_setSt i s b
  exact ⟨fun t h => forgetSt_eq_next (h ▸ hsame), fun f h => forgetSt_eq_fault (h ▸ hsame)⟩

/-! ### Transactions (46_host_interface.md R150 to R161) -/

/-- The states a transaction can leave: `Leaves s tr u` when `tr` on `s` may leave `u`. A refused or faulting one leaves
`s`, with the fault latched if it is new; each other case is the transaction's own effect. -/
inductive Leaves (s : State) : Transaction → State → Prop where
  | same (tr : Transaction) : Leaves s tr s
  | latched (tr : Transaction) (f : Fault) : Leaves s tr (s.latch f)
  | reset : Leaves s .reset s.doReset
  | load (bytes : List Byte) (hlen : bytes.length ≤ 3584) :
      Leaves s (.load bytes) (s.doReset.setMem (Memory.copy bytes 0x200 s.doReset.mem))
  | executed (i : Instr) (t : State) (hf : s.fault = none) (hw : s.wait = none) (hi : s.nextInstr = .ok i)
      (h : exec i s.advance = .next t) : Leaves s .step t
  | tick : Leaves s .tick s.doTick
  | keyDown (k : Reg) : Leaves s (.keyDown k.val) ((s.setKey k true).wake k)
  | keyUp (k : Reg) : Leaves s (.keyUp k.val) (s.setKey k false)

/-- A transaction's outcome leaves what its next state is, or the state it began with. -/
theorem leaves_settle {s : State} {tr : Transaction} (ok : Answer) {r : Result}
    (h : ∀ t, r = .next t → Leaves s tr t) : Leaves s tr (settle s ok r).2 := by
  cases r with
  | next t => exact h t rfl
  | fault f => exact .latched tr f
  | refused => exact .same tr

theorem leaves_unlessFaulted {s : State} {tr : Transaction} {run : Answer × State}
    (h : s.fault = none → Leaves s tr run.2) : Leaves s tr (unlessFaulted s run).2 := by
  unfold unlessFaulted
  split
  · exact .same tr
  · exact h ‹_›

theorem doLoad_inv {bytes : List Byte} {s t : State} (h : State.doLoad bytes s = .next t) :
    bytes.length ≤ 3584 ∧ t = s.doReset.setMem (Memory.copy bytes 0x200 s.doReset.mem) := by
  unfold State.doLoad at h
  split at h
  · cases h; exact ⟨‹_›, rfl⟩
  · cases h

theorem doKeyDown_inv {k : Nat} {s t : State} (h : State.doKeyDown k s = .ok t) :
    ∃ q : Reg, q.val = k ∧ t = (s.setKey q true).wake q := by
  unfold State.doKeyDown at h
  split at h
  · cases h; exact ⟨_, rfl, rfl⟩
  · cases h

theorem doKeyUp_inv {k : Nat} {s t : State} (h : State.doKeyUp k s = .ok t) :
    ∃ q : Reg, q.val = k ∧ t = s.setKey q false := by
  unfold State.doKeyUp at h
  split at h
  · cases h; exact ⟨_, rfl, rfl⟩
  · cases h

/-- Everything a transaction can leave. -/
theorem transact_leaves (tr : Transaction) (s : State) : Leaves s tr (transact tr s).2 := by
  cases tr with
  | reset => exact .reset
  | load bytes =>
    refine leaves_settle _ fun t h => ?_
    obtain ⟨hlen, rfl⟩ := doLoad_inv h
    exact .load bytes hlen
  | step =>
    refine leaves_unlessFaulted fun hf => leaves_settle _ fun t h => ?_
    obtain ⟨-, ⟨-, rfl⟩ | ⟨hw, i, hi, he⟩⟩ := step_inv h
    · exact .same _
    · exact .executed i t hf hw hi he
  | tick => exact leaves_unlessFaulted fun _ => .tick
  | keyDown k =>
    refine leaves_unlessFaulted fun _ => leaves_settle _ fun t h => ?_
    obtain ⟨q, rfl, rfl⟩ := doKeyDown_inv (conclude_next h)
    exact .keyDown q
  | keyUp k =>
    refine leaves_unlessFaulted fun _ => leaves_settle _ fun t h => ?_
    obtain ⟨q, rfl, rfl⟩ := doKeyUp_inv (conclude_next h)
    exact .keyUp q
  | readDisplay => exact .same _

/-- The wake-up writes registers and the wait marker at most (R154). -/
theorem agree_wake (s : State) (k : Reg) : Agree [.v, .wait] s (s.wake k) := by
  unfold State.wake
  split
  · exact .refl _ s
  · exact ((agree_setReg s _ _).mono (by simp)).trans ((agree_setWait _ none).mono (by simp))

theorem countDown_le (t : Byte) : (countDown t).toNat ≤ t.toNat := by
  unfold countDown
  split
  · exact Nat.zero_le _
  · bv_omega

/-- A transaction leaves both timers no greater, or it is a Step with the exact frame of its instruction. -/
theorem Leaves.timers {s u : State} {tr : Transaction} (h : Leaves s tr u) :
    (u.dt.toNat ≤ s.dt.toNat ∧ u.st.toNat ≤ s.st.toNat) ∨
      (tr = .step ∧ ∃ i, s.nextInstr = .ok i ∧ Agree (writes i) s.advance u) := by
  cases h with
  | executed i _ _ _ hi he => exact .inr ⟨rfl, i, hi, exec_agree he⟩
  | same | latched | keyUp => exact .inl ⟨le_refl _, le_refl _⟩
  | reset | load => exact .inl ⟨Nat.zero_le _, Nat.zero_le _⟩
  | tick => exact .inl ⟨countDown_le s.dt, countDown_le s.st⟩
  | keyDown k =>
    have hdt : ((s.setKey k true).wake k).dt = s.dt := agree_wake _ k .dt (by simp)
    have hst : ((s.setKey k true).wake k).st = s.st := agree_wake _ k .st (by simp)
    exact .inl ⟨by rw [hdt], by rw [hst]⟩

/-- Settles O57: only a Step can raise a timer, and only by an instruction whose row of the table names it. -/
theorem timersOnlyRiseByTheirLoads : Obligations.TimersOnlyRiseByTheirLoads := by
  intro tr s
  have hl := (transact_leaves tr s).timers
  generalize (transact tr s).2 = u at hl ⊢
  obtain ⟨hdt, hst⟩ | ⟨rfl, i, hi, hframe⟩ := hl
  · exact ⟨fun h => absurd h (Nat.not_lt.mpr hdt), fun h => absurd h (Nat.not_lt.mpr hst)⟩
  · refine ⟨fun h => ⟨rfl, ?_⟩, fun h => ⟨rfl, ?_⟩⟩
    · have hw : .dt ∈ writes i := by
        by_contra hw
        exact h.ne' (congrArg BitVec.toNat (hframe .dt hw))
      obtain ⟨x, rfl⟩ := dt_mem_writes hw
      exact ⟨x, hi⟩
    · have hw : .st ∈ writes i := by
        by_contra hw
        exact h.ne' (congrArg BitVec.toNat (hframe .st hw))
      obtain ⟨x, rfl⟩ := st_mem_writes hw
      exact ⟨x, hi⟩

/-- Settles O58: of the states a transaction can leave, only those after Reset, Load, CLS and DRW have another display. -/
theorem displayChangesOnlyByClearAndDraw : Obligations.DisplayChangesOnlyByClearAndDraw := by
  refine ⟨fun tr s hdisp => ?_, fun s hf => by simp [transact, hf]⟩
  have hl := transact_leaves tr s
  generalize (transact tr s).2 = u at hl hdisp
  cases hl with
  | reset => exact .inl rfl
  | load bytes => exact .inr (.inl ⟨bytes, rfl⟩)
  | executed i _ _ _ hi he =>
    have hw : .disp ∈ writes i := by
      by_contra hw
      exact hdisp (exec_agree he .disp hw)
    refine .inr (.inr ⟨rfl, ?_⟩)
    obtain rfl | ⟨x, y, n, rfl⟩ := disp_mem_writes hw
    · exact .inl hi
    · exact .inr ⟨x, y, n, hi⟩
  | keyDown k => exact absurd (agree_wake (s.setKey k true) k .disp (by simp)) hdisp
  | same | latched | tick | keyUp => exact absurd rfl hdisp

/-! ### The fault latch (R24, R161, R175) -/

theorem unlessFaulted_faulted {s : State} {f : Fault} (hf : s.fault = some f) (run : Answer × State) :
    unlessFaulted s run = (.fault f, s) := by
  simp [unlessFaulted, hf]

/-- The four transactions that a faulted core only answers with its fault (R161). -/
theorem transact_faulted {s : State} {f : Fault} {tr : Transaction} (hf : s.fault = some f)
    (htr : tr = .step ∨ tr = .tick ∨ (∃ k, tr = .keyDown k) ∨ ∃ k, tr = .keyUp k) :
    transact tr s = (.fault f, s) := by
  obtain rfl | rfl | ⟨k, rfl⟩ | ⟨k, rfl⟩ := htr <;> exact unlessFaulted_faulted hf _

/-- Settles O56: the fault of a Step is latched by `settle`, and an induction over the transactions that follow. -/
theorem firstFaultIsLatched : Obligations.FirstFaultIsLatched := by
  refine ⟨fun s f hf h => ⟨s.latch f, ?_, State.latch_fault s f⟩, fun s f ts hf hts => ?_⟩
  · simp [transact, unlessFaulted, hf, h, settle]
  · induction ts with
    | nil => rfl
    | cons tr ts ih =>
      have htr := transact_faulted hf (hts tr (by simp))
      have hrest := ih fun t ht => hts t (by simp [ht])
      simp [runHost, htr, hrest, List.replicate_succ]

/-! ### The digit sprite table (R22) -/

/-- A digit's glyph address is five times the digit, not reduced (R141). -/
theorem toNat_glyphAddr (d : Byte) : (glyphAddr d).toNat = 5 * d.toNat := by
  have := d.isLt
  simp only [glyphAddr, Config.glyphBytes_eq, BitVec.toNat_ofNat]
  omega

/-- Settles O59: `I` holds five times the digit, and memory at reset holds the table from address 0. -/
theorem fontAddressPointsAtTheDigitsGlyph : Obligations.FontAddressPointsAtTheDigitsGlyph := by
  intro s x j hd hj
  refine ⟨s.setI (glyphAddr (s.reg x)), rfl, ?_⟩
  have haddr : (s.setI (glyphAddr (s.reg x))).dataAddr j = 5 * (s.reg x).toNat + j :=
    congrArg (· + j) (toNat_glyphAddr (s.reg x))
  rw [haddr]
  exact resetByte_font (by omega)

end Sys2Proof.Machine
end

section
/-! PROOFS. What a storing instruction leaves in memory, and that a fetch reads it (20_memory.md R33, R42;
45_index_memory.md R142, R143): the obligations about memory. -/

namespace Sys2Proof.Machine

/-- After a storing instruction that completes, byte `I + j` is the `j`-th byte it stores. -/
theorem byteAt_of_exec_stores {i : Instr} {s t : State} (hi : .mem ∈ writes i) (h : exec i s = .next t) {j : Nat}
    (hj : j < (storedBytes i s).length) : t.byteAt (s.dataAddr j) = (storedBytes i s)[j] := by
  obtain ⟨-, rfl⟩ := exec_stores_inv hi h
  have hin : s.dataAddr 0 ≤ s.dataAddr j ∧ s.dataAddr j < s.dataAddr 0 + (storedBytes i s).length := by
    simp only [State.dataAddr]
    omega
  have hoff : s.dataAddr j - s.dataAddr 0 = j := Nat.add_sub_cancel_left s.i.toNat j
  refine (Memory.read_copy _ _ _ _).trans ?_
  simp only [dif_pos hin, hoff]

theorem getElem_regsUpTo (x k : Reg) (h : k.val < (regsUpTo x).length) : (regsUpTo x)[k.val] = k := by
  apply Fin.ext
  rw [← List.getElem_map Fin.val (h := by simpa using h)]
  simp only [regsUpTo_vals, List.getElem_range]

/-- After LD [I],Vx that completes, byte `I + k` is `V[k]` (R143). -/
theorem byteAt_of_exec_dump {s t : State} {x k : Reg} (h : exec (.dump x) s = .next t) (hk : k ≤ x) :
    t.byteAt (s.dataAddr k.val) = s.reg k := by
  have hlen : k.val < (regsUpTo x).length := by rw [length_regsUpTo]; exact Nat.lt_succ_of_le hk
  rw [byteAt_of_exec_stores (by simp [writes]) h (by simpa [storedBytes] using hlen)]
  simp only [storedBytes, List.getElem_map, getElem_regsUpTo]

/-- Settles O16: a fetch reads memory byte by byte, and the dump has left `V[k]` at `pc` and `V[k+1]` after it. -/
theorem storesAreSeenByTheNextFetch : Obligations.StoresAreSeenByTheNextFetch := by
  intro s t x k h hk hpc hle
  refine ⟨t.byteAt (s.dataAddr k.val + 1), ?_, fun q hq hqk => ?_⟩
  · rw [State.fetch_ok t (hpc ▸ hle), hpc, byteAt_of_exec_dump h hk]
  · have hnext : s.dataAddr q.val = s.dataAddr k.val + 1 := congrArg (s.i.toNat + ·) hqk
    exact hnext ▸ byteAt_of_exec_dump h hq

end Sys2Proof.Machine
end

section
/-! PROOFS. Encoding and decoding (30_encoding.md R51 to R58, R62, R63): decoder and encoder are inverse to each other,
the decoder follows the rows of the opcode map, and the number of supported words. -/

namespace Sys2Proof

/-- Settles O1: the decoder evaluated on each word. -/
theorem writtenOutWordsDecode : Obligations.WrittenOutWordsDecode := by
  unfold Obligations.WrittenOutWordsDecode
  decide

/-! ### Encode, then decode -/

/-- Settles O2: each format gives back the fields it was built from, and they select the instruction's arm. -/
theorem decodeOfEncodeIsTheInstruction : Obligations.DecodeOfEncodeIsTheInstruction := by
  intro i hwf
  cases i with
  | cls | ret => rfl
  | jp | call | ldI | jpV0 => simp [encode, decodeWord]
  | seImm | sneImm | ldImm | addImm | rnd => simp [encode, decodeWord]
  | seReg | sneReg => simp [encode, decodeWord, decodeLowNibbleZero]
  | ldReg | orReg | andReg | xorReg | addReg | sub | shr | subn | shl => simp [encode, decodeWord, decode8]
  | drw x y n =>
    have hn : n < 16 := of_decide_eq_true hwf
    simp [encode, decodeWord, Nat.mod_eq_of_lt hn]
  | skp | sknp => simp [encode, decodeWord, decodeE, formatX_eq]
  | ldVxDt | ldVxK | ldDtVx | ldStVx | addI | ldF | ldB | dump | load =>
    simp [encode, decodeWord, decodeF, formatX_eq]

/-! ### Decode, then encode

A word whose selecting fields are known is the format of those and of its other fields. -/

theorem formatA_of_fieldOp {w : Word} {op : BitVec 4} (hop : fieldOp w = op) : formatA op (fieldNnn w) = w :=
  hop ▸ formatA_fields w

theorem formatXK_of_fieldOp {w : Word} {op : BitVec 4} (hop : fieldOp w = op) :
    formatXK op (fieldX w) (fieldKk w) = w :=
  hop ▸ formatXK_fields w

theorem formatX_of_fields {w : Word} {op : BitVec 4} {sub8 : Byte} (hop : fieldOp w = op) (hk : fieldKk w = sub8) :
    formatX op (fieldX w) sub8 = w :=
  hk ▸ formatXK_of_fieldOp hop

theorem formatXY_of_fields {w : Word} {op n : BitVec 4} (hop : fieldOp w = op) (hn : fieldSub4 w = n) :
    formatXY op (fieldX w) (fieldY w) n = w :=
  hop ▸ hn ▸ formatXY_fields w

/-- What a decoder may answer to the word `w`: a well-formed instruction whose word is `w`, or the failure with `w`. -/
def Answers (w : Word) : Except DecodeFailure Instr → Prop
  | .ok i => i.wf = true ∧ encode i = w
  | .error e => e = .unsupported w

theorem answers_decode0 (w : Word) : Answers w (decode0 w) := by
  unfold decode0
  split
  · exact ⟨rfl, Eq.symm ‹_›⟩
  · split
    · exact ⟨rfl, Eq.symm ‹_›⟩
    · rfl

theorem answers_decodeLowNibbleZero {w : Word} {i : Instr}
    (h : fieldSub4 w = 0x0#4 → i.wf = true ∧ encode i = w) : Answers w (decodeLowNibbleZero w i) := by
  unfold decodeLowNibbleZero
  split
  · exact h ‹_›
  · rfl

theorem answers_decode8 {w : Word} (hop : fieldOp w = 0x8#4) : Answers w (decode8 w) := by
  unfold decode8
  split
  case h_10 => rfl
  all_goals exact ⟨rfl, formatXY_of_fields hop ‹_›⟩

theorem answers_decodeE {w : Word} (hop : fieldOp w = 0xE#4) : Answers w (decodeE w) := by
  unfold decodeE
  split
  case h_3 => rfl
  all_goals exact ⟨rfl, formatX_of_fields hop ‹_›⟩

theorem answers_decodeF {w : Word} (hop : fieldOp w = 0xF#4) : Answers w (decodeF w) := by
  unfold decodeF
  split
  case h_10 => rfl
  all_goals exact ⟨rfl, formatX_of_fields hop ‹_›⟩

/-- The arms of R54, numbered from 1 for the leading nibble 0, taken together by their format. -/
theorem answers_decodeWord (w : Word) : Answers w (decodeWord w) := by
  unfold decodeWord
  split
  case h_1 => exact answers_decode0 w
  case h_2 | h_3 | h_11 | h_12 => exact ⟨rfl, formatA_of_fieldOp ‹_›⟩
  case h_4 | h_5 | h_7 | h_8 | h_13 => exact ⟨rfl, formatXK_of_fieldOp ‹_›⟩
  case h_6 | h_10 => exact answers_decodeLowNibbleZero fun hn => ⟨rfl, formatXY_of_fields ‹_› hn⟩
  case h_9 => exact answers_decode8 ‹_›
  case h_14 => exact ⟨decide_eq_true (fieldN_lt w), formatXY_of_fields ‹_› (ofNat_fieldN w).symm⟩
  case h_15 => exact answers_decodeE ‹_›
  case h_16 =>
    simp only [imp_false] at *
    exact answers_decodeF (by bv_omega)

/-- Settles O3: every arm of the decoder answers an instruction whose word is the one it was given. -/
theorem encodeOfDecodedWordIsTheWord : Obligations.EncodeOfDecodedWordIsTheWord := by
  intro w i h
  have hans : Answers w (.ok i) := h ▸ answers_decodeWord w
  exact hans

theorem decodeWord_error {w : Word} {e : DecodeFailure} (h : decodeWord w = .error e) : e = .unsupported w := by
  have hans : Answers w (.error e) := h ▸ answers_decodeWord w
  exact hans

/-! ### The rows of the opcode map (R55)

A row's mask covers the fields by which the decoder chooses the row, so every word of a row decodes to the row that the
row's own `value` decodes to. -/

/-- `w` agrees with `v` in the fields by which the decoder chooses the row of `v`. -/
structure SameSelectors (w v : Word) : Prop where
  op : fieldOp w = fieldOp v
  word : fieldOp v = 0x0#4 → w = v
  sub4 : fieldOp v = 0x5#4 ∨ fieldOp v = 0x8#4 ∨ fieldOp v = 0x9#4 → fieldSub4 w = fieldSub4 v
  kk : 0xE#4 ≤ fieldOp v → fieldKk w = fieldKk v

/-- The row of the decoded instruction depends on the selecting fields alone. -/
theorem row_decodeWord_congr {w v : Word} (h : SameSelectors w v) :
    (decodeWord w).toOption.map Instr.row = (decodeWord v).toOption.map Instr.row := by
  obtain ⟨hop, hword, hsub, hkk⟩ := h
  unfold decodeWord
  rw [hop]
  split
  case h_1 => rw [hword ‹_›]
  case h_6 h | h_10 h =>
    simp only [decodeLowNibbleZero, hsub (by simp [h])]
    split <;> rfl
  case h_9 h =>
    simp only [decode8, hsub (by simp [h])]
    split <;> rfl
  case h_15 h =>
    simp only [decodeE, hkk (by simp [h])]
    split <;> rfl
  case h_16 =>
    simp only [imp_false] at *
    simp only [decodeF, hkk (by bv_omega)]
    split <;> rfl
  all_goals rfl

theorem opcodeRows_masks : ∀ r ∈ opcodeRows,
    fieldOp r.mask = 0xF#4 ∧ (fieldOp r.value = 0x0#4 → r.mask = 0xFFFF#16) ∧
    (fieldOp r.value = 0x5#4 ∨ fieldOp r.value = 0x8#4 ∨ fieldOp r.value = 0x9#4 → fieldSub4 r.mask = 0xF#4) ∧
    (0xE#4 ≤ fieldOp r.value → fieldKk r.mask = 0xFF#8) := by decide

theorem opcodeRows_values : ∀ r ∈ opcodeRows, (decodeWord r.value).toOption.map Instr.row = some r := by decide

theorem eq_of_and_allOnes {n : Nat} {a m v : BitVec n} (h : a &&& m = v) (hm : m = BitVec.allOnes n) : a = v := by
  rw [← h, hm, BitVec.and_allOnes]

theorem extractLsb'_of_and {w m v : Word} (h : w &&& m = v) (s l : Nat) :
    w.extractLsb' s l &&& m.extractLsb' s l = v.extractLsb' s l :=
  BitVec.extractLsb'_and.symm.trans (congrArg (BitVec.extractLsb' s l) h)

theorem sameSelectors_of_selects {w : Word} {r : OpcodeRow} (hr : r ∈ opcodeRows) (h : r.selects w = true) :
    SameSelectors w r.value := by
  have hand : w &&& r.mask = r.value := beq_iff_eq.mp h
  obtain ⟨hop, hword, hsub, hkk⟩ := opcodeRows_masks r hr
  exact {
    op := eq_of_and_allOnes (extractLsb'_of_and hand 12 4) hop
    word := fun hv => eq_of_and_allOnes hand (hword hv)
    sub4 := fun hv => eq_of_and_allOnes (extractLsb'_of_and hand 0 4) (hsub hv)
    kk := fun hv => eq_of_and_allOnes (extractLsb'_of_and hand 0 8) (hkk hv) }

theorem decodeWord_of_selects {w : Word} {r : OpcodeRow} (hr : r ∈ opcodeRows) (h : r.selects w = true) :
    ∃ i, decodeWord w = .ok i ∧ i.row = r := by
  have hrow := (row_decodeWord_congr (sameSelectors_of_selects hr h)).trans (opcodeRows_values r hr)
  cases hw : decodeWord w with
  | ok i => rw [hw] at hrow; exact ⟨i, rfl, Option.some.inj hrow⟩
  | error => rw [hw] at hrow; cases hrow

theorem row_mem_opcodeRows (i : Instr) : i.row ∈ opcodeRows := by
  have hlt : i.rowIndex < opcodeRows.length := by
    change i.rowIndex < 34
    cases i <;> simp [Instr.rowIndex]
  rw [Instr.row, List.getD_eq_getElem _ _ hlt]
  exact List.getElem_mem hlt

open Laws in
theorem row_selects_encode (i : Instr) : i.row.selects (encode i) = true := by
  cases i with
  | cls | ret => rfl
  | jp | call | ldI | jpV0 => exact EncodesInItsRow.of_and rfl rfl rfl (EncodesInItsRow.formatA_selects _ _)
  | seImm | sneImm | ldImm | addImm | rnd => exact EncodesInItsRow.of_xk rfl rfl rfl
  | seReg | sneReg | ldReg | orReg | andReg | xorReg | addReg | sub | shr | subn | shl =>
    exact EncodesInItsRow.of_xy rfl rfl rfl
  | drw => exact EncodesInItsRow.of_xyn rfl rfl rfl
  | skp | sknp | ldVxDt | ldVxK | ldDtVx | ldStVx | addI | ldF | ldB | dump | load =>
    exact EncodesInItsRow.of_x rfl rfl rfl

theorem row_selects_of_decodeWord {w : Word} {i : Instr} (h : decodeWord w = .ok i) : i.row.selects w = true := by
  obtain ⟨-, rfl⟩ := encodeOfDecodedWordIsTheWord w i h
  exact row_selects_encode i

/-- The rows are disjoint (R55). -/
theorem row_unique {w : Word} {r q : OpcodeRow} (hr : r ∈ opcodeRows) (hq : q ∈ opcodeRows)
    (hrw : r.selects w = true) (hqw : q.selects w = true) : r = q := by
  obtain ⟨i, hi, rfl⟩ := decodeWord_of_selects hr hrw
  obtain ⟨j, hj, rfl⟩ := decodeWord_of_selects hq hqw
  exact congrArg Instr.row (Except.ok.inj (hi.symm.trans hj))

/-- Settles O4: encoding ties an answer to its row, and the row of a word decides what the word decodes to. -/
theorem decoderAgreesWithTheOpcodeMap : Obligations.DecoderAgreesWithTheOpcodeMap := by
  refine ⟨fun w i h => ⟨row_mem_opcodeRows i, row_selects_of_decodeWord h⟩, fun w hnone => ?_,
    fun _ _ => decodeWord_of_selects, fun _ _ _ => row_unique⟩
  cases hw : decodeWord w with
  | ok i =>
    have hno := hnone i.row (row_mem_opcodeRows i)
    rw [row_selects_of_decodeWord hw] at hno
    cases hno
  | error e => rw [decodeWord_error hw]

theorem isOk_decodeWord_iff (w : Word) : (decodeWord w).isOk = true ↔ ∃ r ∈ opcodeRows, r.selects w = true := by
  constructor
  · intro h
    cases hw : decodeWord w with
    | ok i => exact ⟨i.row, row_mem_opcodeRows i, row_selects_of_decodeWord hw⟩
    | error => rw [hw] at h; cases h
  · rintro ⟨r, hr, h⟩
    obtain ⟨i, hi, -⟩ := decodeWord_of_selects hr h
    rw [hi]
    rfl

/-! ### The number of supported words (R63)

The rows are disjoint, so the supported words are counted row by row; and a row's mask and value are matched nibble by
nibble, so a row selects the product of four counts of 4-bit values. -/

/-- Nibble `k` of a word, nibble 0 the least significant. -/
def nibble (w : Word) (k : Fin 4) : Reg := (w.extractLsb' (4 * k) 4).toFin

/-- The word of four nibbles. -/
def ofNibbles (q : Fin 4 → Reg) : Word := formatXY (regBits (q 3)) (q 2) (q 1) (regBits (q 0))

theorem nibble_ofNibbles (q : Fin 4 → Reg) : nibble (ofNibbles q) = q := by
  funext k
  fin_cases k
  · exact congrArg BitVec.toFin (fieldSub4_formatXY _ _ _ _)
  · exact fieldY_formatXY _ _ _ _
  · exact fieldX_formatXY _ _ _ _
  · exact congrArg BitVec.toFin (fieldOp_formatXY _ _ _ _)

theorem ofNibbles_nibble (w : Word) : ofNibbles (nibble w) = w := formatXY_fields w

theorem nibble_and (a b : Word) (k : Fin 4) : nibble (a &&& b) k = nibble a k &&& nibble b k := by
  rw [nibble, BitVec.extractLsb'_and, BitVec.toFin_and]
  rfl

/-- The words of a row, as nibbles: each nibble meets the row's mask in the row's value. -/
def OpcodeRow.words (r : OpcodeRow) : Finset (Fin 4 → Reg) :=
  Fintype.piFinset fun k => Finset.univ.filter fun b => b &&& nibble r.mask k = nibble r.value k

theorem mem_words (r : OpcodeRow) (q : Fin 4 → Reg) : q ∈ r.words ↔ r.selects (ofNibbles q) = true := by
  have hinj : Function.Injective nibble := Function.LeftInverse.injective ofNibbles_nibble
  simp [OpcodeRow.words, OpcodeRow.selects, ← hinj.eq_iff, funext_iff, nibble_and, nibble_ofNibbles]

theorem sum_card_words : ∑ r ∈ opcodeRows.toFinset, r.words.card = 43954 := by
  simp only [OpcodeRow.words, Fintype.card_piFinset]
  decide

theorem card_supported : (Finset.univ.filter fun q => (decodeWord (ofNibbles q)).isOk = true).card = 43954 := by
  have hunion : (Finset.univ.filter fun q => (decodeWord (ofNibbles q)).isOk = true) =
      opcodeRows.toFinset.biUnion OpcodeRow.words := by
    ext q
    simp [isOk_decodeWord_iff, mem_words]
  have hdisj : (opcodeRows.toFinset : Set OpcodeRow).PairwiseDisjoint OpcodeRow.words := by
    intro r hr q hq hne
    refine Finset.disjoint_left.mpr fun w hrw hqw => hne ?_
    exact row_unique (List.mem_toFinset.mp hr) (List.mem_toFinset.mp hq) ((mem_words r w).mp hrw)
      ((mem_words q w).mp hqw)
  rw [hunion, Finset.card_biUnion hdisj, sum_card_words]

theorem length_filter_range (p : Nat → Bool) (n : Nat) :
    ((List.range n).filter p).length = ((Finset.range n).filter fun k => p k = true).card := by
  simpa [Nat.count, List.countP_eq_length_filter] using Nat.count_eq_card_filter_range (fun k => p k = true) n

/-- Counting words by their number is counting them by their nibbles. -/
theorem length_filter_words (p : Word → Bool) :
    ((List.range 65536).filter fun n => p (BitVec.ofNat 16 n)).length =
      (Finset.univ.filter fun q => p (ofNibbles q) = true).card := by
  rw [length_filter_range]
  refine Finset.card_nbij' (fun n => nibble (BitVec.ofNat 16 n)) (fun q => (ofNibbles q).toNat) ?_ ?_ ?_ ?_
  · intro n hn
    simpa [ofNibbles_nibble] using (Finset.mem_filter.mp hn).2
  · intro q hq
    simpa [(ofNibbles q).isLt] using hq
  · intro n hn
    have hlt : n < 65536 := Finset.mem_range.mp (Finset.mem_filter.mp hn).1
    simp [ofNibbles_nibble, Nat.mod_eq_of_lt hlt]
  · intro q _
    simp [nibble_ofNibbles]

theorem length_filter_not (p : Nat → Bool) {n k m : Nat} (h : ((List.range n).filter p).length = k)
    (hn : n = k + m) : ((List.range n).filter fun a => !p a).length = m := by
  have hall := (List.range n).length_eq_length_filter_add p
  rw [List.length_range] at hall
  omega

/-- Settles O5: the sizes of the 34 disjoint rows add up to the first count, and the second is the rest of 65536. -/
theorem supportedWordCounts : Obligations.SupportedWordCounts :=
  have hok := (length_filter_words fun w => (decodeWord w).isOk).trans card_supported
  ⟨hok, length_filter_not _ hok rfl⟩

end Sys2Proof
end

section
/-! PROOFS. The unused `y` of the shifts (30_encoding.md R57; 42_load_alu.md R110, R112). -/

namespace Sys2Proof.Machine

theorem State.setReg_comm (s : State) {r q : Reg} (a b : Byte) (h : r ≠ q) :
    (s.setReg r a).setReg q b = (s.setReg q b).setReg r a := by
  have hv : (s.v.set r.val a).set q.val b = (s.v.set q.val b).set r.val a :=
    Vector.set_comm _ _ (Fin.val_ne_of_ne h)
  exact congrArg (fun v => { s with v := v }) hv

theorem writeWithFlag_setReg (s : State) {x y : Reg} (r b : Byte) (c : Bool) (hx : y ≠ x) (hf : y ≠ regF) :
    (s.setReg y b).writeWithFlag x r c = (s.writeWithFlag x r c).setReg y b := by
  rw [State.writeWithFlag_eq, State.writeWithFlag_eq, State.setReg_comm s b r hx, State.setReg_comm _ b _ hf]

/-- Settles O6: the meaning of a shift does not mention `y`, reads `V[x]` alone and writes `V[x]` and `VF` alone. -/
theorem shiftsNeitherReadNorWriteVy : Obligations.ShiftsNeitherReadNorWriteVy := by
  intro s x y b hx hf
  have hread : (s.setReg y b).reg x = s.reg x := State.reg_setReg_ne s b hx.symm
  refine ⟨⟨_, rfl, fun _ => rfl, reg_writeWithFlag_ne s _ _ hx hf, ?_⟩,
    ⟨_, rfl, fun _ => rfl, reg_writeWithFlag_ne s _ _ hx hf, ?_⟩⟩
  · simp only [exec, execShr, hread, writeWithFlag_setReg s _ b _ hx hf]
  · simp only [exec, execShl, hread, writeWithFlag_setReg s _ b _ hx hf]

end Sys2Proof.Machine
end

section
/-! PROOFS. The Step cycle (40_step_cycle.md R70 to R76): the wait of a Step for a key, the fetch, the instruction it
runs, and that it is never refused. -/

namespace Sys2Proof.Machine

/-! ### Steps that change nothing (R72) -/

/-- A run from a state that a step leaves as it is stays there. -/
theorem run_of_step_eq_self {M : Host.Core} {s : M.State} (h : M.step s = .next s) (n : Nat) : M.run n s = .next s := by
  induction n with
  | zero => rfl
  | succ n ih => simp only [Host.Core.run, h, ih]

/-- A transaction that leaves the state as it is gives the same answer each time it is repeated. -/
theorem runHost_replicate_of_transact_eq_self {tr : Transaction} {s : State} {a : Answer} (h : transact tr s = (a, s))
    (n : Nat) : runHost (List.replicate n tr) s = (List.replicate n a, s) := by
  induction n with
  | zero => rfl
  | succ n ih => simp only [List.replicate_succ, runHost, h, ih]

theorem step_awaiting {s : State} {x : Reg} (hf : s.fault = none) (hw : s.wait = some x) : step s = .next s := by
  simp only [step, hf, hw]

theorem transact_step_awaiting {s : State} {x : Reg} (hf : s.fault = none) (hw : s.wait = some x) :
    transact .step s = (.idle, s) := by
  simp [transact, unlessFaulted, hf, hw, step_awaiting hf hw, settle]

/-- Settles O14: one Step while a key is awaited leaves the state, and an induction on the number of Steps. -/
theorem stepsWhileAwaitingAreNoOps : Obligations.StepsWhileAwaitingAreNoOps := fun _ _ n hf hw =>
  ⟨run_of_step_eq_self (M := core) (step_awaiting hf hw) n,
    runHost_replicate_of_transact_eq_self (transact_step_awaiting hf hw) n⟩

/-! ### Fetch, decode and execute (R73 to R76) -/

theorem State.nextInstr_ok {s : State} {w : Word} {i : Instr} (hfetch : s.fetch = .ok w) (hdec : decodeWord w = .ok i) :
    s.nextInstr = .ok i := by
  simp only [State.nextInstr, hfetch, hdec]

theorem State.nextInstr_fetch_error {s : State} {f : Fault} (hfetch : s.fetch = .error f) :
    s.nextInstr = .error f := by
  simp only [State.nextInstr, hfetch]

/-- A Step of a running core raises what its fetch or its decode raises. -/
theorem step_nextInstr_error {s : State} {f : Fault} (hf : s.fault = none) (hw : s.wait = none)
    (h : s.nextInstr = .error f) : step s = .fault f := by
  simp only [step, hf, hw, h, raise]

/-- A Step of a running core with `pc` past 4094 raises OutOfBounds at the first byte outside memory (R73). -/
theorem step_fetch_error {s : State} (hf : s.fault = none) (hw : s.wait = none) (hpc : 4095 ≤ s.pc.toNat) :
    step s = .fault (.outOfBounds (.mem (max s.pc.toNat 4096))) :=
  step_nextInstr_error hf hw (State.nextInstr_fetch_error (State.fetch_error s hpc))

/-- Settles O11: the fetch answers the word of the two bytes, and the advance writes `pc` alone. -/
theorem stepRunsTheDecodedInstruction : Obligations.StepRunsTheDecodedInstruction := by
  intro s i hf hw hpc hdec
  have hnext : s.nextInstr = .ok i := State.nextInstr_ok (State.fetch_ok s hpc) hdec
  exact ⟨step_running s i hf hw hnext, toNat_add_two (by omega), (agree_setPc s (s.pc + 2)).sameExcept⟩

/-- Settles O12: the first address outside memory is 4096 when `pc` is 4095, and `pc` itself from 4096 on. -/
theorem fetchSucceedsExactlyUpTo4094 : Obligations.FetchSucceedsExactlyUpTo4094 := by
  refine fun s hf hw => ⟨State.fetch_ok s, fun hpc => ?_, fun hpc => ?_⟩
  · have hmax : max s.pc.toNat 4096 = 4096 := by omega
    exact hmax ▸ step_fetch_error hf hw (by omega)
  · have hmax : max s.pc.toNat 4096 = s.pc.toNat := by omega
    exact hmax ▸ step_fetch_error hf hw (by omega)

/-! ### No refusal (R70)

`conclude` answers a next state or a fault. Every instruction, and so every Step, is the `conclude` of its checks. -/

theorem conclude_ne_refused (e : Except Fault State) (r : Refusal) : conclude e ≠ .refused r := by
  cases e <;> nofun

theorem execCall_eq_conclude (nnn : Addr12) (s : State) :
    execCall nnn s = conclude (s.push.map (·.setPc (target nnn))) := by
  rw [execCall]
  cases s.push <;> rfl

theorem execDrw_eq_conclude (x y : Reg) (n : Nat) (s : State) :
    execDrw x y n s = conclude ((s.blit (s.reg x).toNat (s.reg y).toNat n 0 s.disp false).map
      fun p => (s.setDisp p.1).setReg regF (flagByte p.2)) := by
  rw [execDrw]
  cases s.blit (s.reg x).toNat (s.reg y).toNat n 0 s.disp false <;> rfl

theorem execSkp_eq_conclude (x : Reg) (s : State) :
    execSkp x s = conclude ((s.keyLatch (s.reg x).toNat).map s.skipIf) := by
  rw [execSkp]
  cases s.keyLatch (s.reg x).toNat <;> rfl

theorem execSknp_eq_conclude (x : Reg) (s : State) :
    execSknp x s = conclude ((s.keyLatch (s.reg x).toNat).map fun down => s.skipIf (!down)) := by
  rw [execSknp]
  cases s.keyLatch (s.reg x).toNat <;> rfl

/-- Every instruction "either completes, ... or raises one fault" (R76). -/
theorem exec_eq_conclude (i : Instr) (s : State) : ∃ e, exec i s = conclude e := by
  cases i with
  | call nnn => exact ⟨_, execCall_eq_conclude nnn s⟩
  | drw x y n => exact ⟨_, execDrw_eq_conclude x y n s⟩
  | skp x => exact ⟨_, execSkp_eq_conclude x s⟩
  | sknp x => exact ⟨_, execSknp_eq_conclude x s⟩
  | ret | ldB | dump | load => exact ⟨_, rfl⟩
  | _ => exact ⟨.ok _, rfl⟩

theorem step_eq_conclude (s : State) : ∃ e, step s = conclude e := by
  unfold step
  split
  · exact ⟨.error _, rfl⟩
  · split
    · exact ⟨.ok s, rfl⟩
    · split
      · exact ⟨.error _, rfl⟩
      · exact exec_eq_conclude _ _

/-- Settles O17: a Step is the `conclude` of its checks. -/
theorem noStepIsRefused : Obligations.NoStepIsRefused := by
  intro s r
  obtain ⟨e, he⟩ := step_eq_conclude s
  exact he ▸ conclude_ne_refused e r

end Sys2Proof.Machine
end

section
/-! PROOFS. Control transfer (41_flow.md R85 to R92): jumps, the self-jump, calls and returns, skips. -/

namespace Sys2Proof.Machine

/-! ### Jumps (R86, R92) -/

/-- The furthest sum is 0xFFF + 0xFF, so 16 bits hold it (R92). -/
theorem toNat_target_add_widen (nnn : Addr12) (b : Byte) :
    (target nnn + widen b).toNat = nnn.toNat + b.toNat := by
  have := nnn.isLt
  have := b.isLt
  rw [BitVec.toNat_add, toNat_target, toNat_widen]
  omega

/-- Settles O23: both jumps are one write to `pc`, and neither the address nor the sum wraps. -/
theorem jumpsSetPc : Obligations.JumpsSetPc := fun s nnn =>
  ⟨⟨_, rfl, toNat_target nnn, (agree_setPc s _).sameExcept⟩,
    ⟨_, rfl, toNat_target_add_widen nnn (s.reg 0), (agree_setPc s _).sameExcept⟩⟩

/-- A Step at a jump to its own address: the jump undoes the fetch advance (R86). -/
theorem step_selfJump {s : State} {nnn : Addr12} (hf : s.fault = none) (hw : s.wait = none)
    (hfetch : s.fetch = .ok (encode (.jp nnn))) (hpc : s.pc.toNat = nnn.toNat) : step s = .next s := by
  have hnext : s.nextInstr = .ok (.jp nnn) := State.nextInstr_ok hfetch (decodeOfEncodeIsTheInstruction _ rfl)
  have htarget : target nnn = s.pc := BitVec.eq_of_toNat_eq ((toNat_target nnn).trans hpc.symm)
  calc step s
    _ = exec (.jp nnn) s.advance := step_running s _ hf hw hnext
    _ = .next (s.setPc (target nnn)) := rfl
    _ = .next s := by rw [htarget]; rfl

/-- Settles O15: one Step leaves the state, and so do any number of them. -/
theorem selfJumpChangesNothing : Obligations.SelfJumpChangesNothing := fun _ _ n hf hw hfetch hpc =>
  run_of_step_eq_self (M := core) (step_selfJump hf hw hfetch hpc) n

/-! ### Calls and returns (R85, R87) -/

theorem exec_call_push_ok (nnn : Addr12) {s u : State} (h : s.push = .ok u) :
    exec (.call nnn) s = .next (u.setPc (target nnn)) := by
  simp only [exec, execCall, h]

theorem exec_call_push_error (nnn : Addr12) {s : State} {f : Fault} (h : s.push = .error f) :
    exec (.call nnn) s = .fault f := by
  simp only [exec, execCall, h, raise]

/-- Settles O24: CALL is the push, then the jump; a full stack refuses the push. -/
theorem callPushesAndJumps : Obligations.CallPushesAndJumps := by
  refine fun s nnn => ⟨fun h => ?_, fun h => exec_call_push_error nnn (State.push_full s h)⟩
  have hexec := exec_call_push_ok nnn (State.push_ok s h)
  refine ⟨_, hexec, Vector.getElem_set_self h, fun k hk hne => ?_, rfl, toNat_target nnn, (exec_agree hexec).sameExcept⟩
  exact Vector.getElem_set_ne h hk hne.symm

/-- Settles O25: RET is the pop, which an empty stack refuses. -/
theorem returnPopsTheNewestAddress : Obligations.ReturnPopsTheNewestAddress := by
  refine fun s => ⟨fun h => ?_, fun h => congrArg conclude (State.pop_empty s h)⟩
  have hexec : exec .ret s = .next _ := congrArg conclude (State.pop_ok s h)
  exact ⟨_, hexec, rfl, Nat.sub_add_cancel h, (exec_agree hexec).sameExcept⟩

/-- A pop after a push, from whatever `pc`, restores the state but for the entry that the push wrote (R85). -/
theorem State.pop_push {s t : State} (w : Word) (h : s.push = .ok t) :
    (t.setPc w).pop = .ok { s with stack := t.stack } := by
  obtain ⟨hs, rfl⟩ := State.push_inv h
  rw [State.pop_ok _ (Nat.succ_pos s.sp.val)]
  simp [State.setPc]

theorem agree_withStack (s : State) (v : Vector Word 16) : Agree [.stack] s { s with stack := v } := by
  intro e he; cases e <;> simp [Elem.SameField] at he ⊢

/-- Settles O26: the RET pops what the CALL pushed, and the push wrote `stack[sp]` alone. -/
theorem callThenReturnRestoresPc : Obligations.CallThenReturnRestoresPc := by
  intro s t nnn w h
  obtain ⟨u, hpush, rfl⟩ := execCall_inv h
  refine ⟨_, congrArg conclude (State.pop_push w hpush), (agree_withStack s _).sameExcept, fun k hk hne => ?_⟩
  obtain ⟨hs, rfl⟩ := State.push_inv hpush
  exact Vector.getElem_set_ne hs hk hne.symm

/-! ### Skips (R88 to R91) -/

/-- A skip whose test `c` decides `P`, from a `pc` within the bound of R14, under which the extra 2 does not wrap. -/
theorem skipIf_spec {s : State} {c : Bool} {P : Prop} [Decidable P] (hpc : s.pc.toNat ≤ 0x10FE) (hc : c = true ↔ P) :
    SameExcept [.pc] s (s.skipIf c) ∧ (s.skipIf c).pc.toNat = if P then s.pc.toNat + 2 else s.pc.toNat := by
  refine ⟨(agree_skipIf s c).sameExcept, ?_⟩
  have htaken : (s.pc + 2).toNat = s.pc.toNat + 2 := by bv_omega
  simp only [State.skipIf_pc, hc, apply_ite BitVec.toNat, htaken]

/-- Settles O27: each is a skip on the Boolean form of its condition. -/
theorem skipsAdvancePcWhenTheirConditionHolds : Obligations.SkipsAdvancePcWhenTheirConditionHolds :=
  fun _ _ _ _ hpc =>
    ⟨⟨_, rfl, skipIf_spec hpc beq_iff_eq⟩, ⟨_, rfl, skipIf_spec hpc bne_iff_ne⟩,
      ⟨_, rfl, skipIf_spec hpc beq_iff_eq⟩, ⟨_, rfl, skipIf_spec hpc bne_iff_ne⟩⟩

end Sys2Proof.Machine
end

section
/-! PROOFS. Loads, arithmetic and logic, random (42_load_alu.md R100 to R113), and the writes to the index register
(45_index_memory.md R140, R141). -/

namespace Sys2Proof.Machine

/-! ### Draws of the random source (R113, R157) -/

theorem draws_mem_writes {i : Instr} (h : .draws ∈ writes i) : ∃ x kk, i = .rnd x kk := by
  cases i <;> simp [writes] at h ⊢

theorem agree_latch (s : State) (f : Fault) : Agree [.fault] s (s.latch f) := by
  intro e he; cases e <;> simp [Elem.SameField] at he ⊢

/-- The transaction Step answers Executed with the next state of its instruction, or leaves all but the fault latch as
it was: on a faulted core (R161), while a key is awaited (R72), and when it raises (log 4). -/
theorem transact_step_cases (s : State) :
    (∃ i t, s.nextInstr = .ok i ∧ exec i s.advance = .next t ∧ transact .step s = (.executed, t)) ∨
      ((transact .step s).1 ≠ .executed ∧ Agree [.fault] s (transact .step s).2) := by
  cases hf : s.fault with
  | some f =>
    rw [transact_faulted hf (.inl rfl)]
    exact .inr ⟨nofun, .refl _ s⟩
  | none =>
    cases hw : s.wait with
    | some x =>
      rw [transact_step_awaiting hf hw]
      exact .inr ⟨nofun, .refl _ s⟩
    | none =>
      have hrun : transact .step s = settle s .executed (step s) := by simp [transact, unlessFaulted, hf, hw]
      rw [hrun]
      cases hstep : step s with
      | next t =>
        obtain ⟨-, ⟨hwait, -⟩ | ⟨-, i, hi, he⟩⟩ := step_inv hstep
        · simp [hw] at hwait
        · exact .inl ⟨i, t, hi, he, rfl⟩
      | fault f => exact .inr ⟨nofun, agree_latch s f⟩
      | refused r => exact absurd hstep (noStepIsRefused s r)

/-- No transaction but Step draws; Reset and Load keep the counter (R157, log 1). -/
theorem Leaves.draws_of_ne_step {s u : State} {tr : Transaction} (h : Leaves s tr u) (htr : tr ≠ .step) :
    u.draws = s.draws := by
  cases h with
  | executed => exact absurd rfl htr
  | keyDown k => exact agree_wake (s.setKey k true) k .draws (by simp)
  | same | latched | reset | load | tick | keyUp => rfl

/-- Settles O34: a Step that executes has the exact frame of its instruction, in which RND alone names the counter; any
other Step, and any other transaction, leaves the counter. -/
theorem onlyExecutedRandomDraws : Obligations.OnlyExecutedRandomDraws := by
  intro tr s
  by_cases htr : tr = .step
  · subst htr
    obtain ⟨i, t, hi, he, htransact⟩ | ⟨hanswer, hframe⟩ := transact_step_cases s
    · rw [htransact]
      by_cases hrnd : ∃ x kk, i = .rnd x kk
      · obtain ⟨x, kk, rfl⟩ := hrnd
        cases he
        exact .inl ⟨rfl, rfl, rfl, x, kk, hi⟩
      · refine .inr ⟨exec_agree he .draws (mt draws_mem_writes hrnd), ?_⟩
        rintro ⟨-, -, x, kk, hi'⟩
        exact hrnd ⟨x, kk, Except.ok.inj (hi.symm.trans hi')⟩
    · exact .inr ⟨hframe .draws (by simp), fun ⟨_, h, _⟩ => hanswer h⟩
  · exact .inr ⟨(transact_leaves tr s).draws_of_ne_step htr, fun ⟨h, _⟩ => htr h⟩

/-- Settles O33: one register write on the state with the draw counted; the frame is that of every RND. -/
theorem randomIsTheDrawUnderTheMask : Obligations.RandomIsTheDrawUnderTheMask := by
  intro s x kk
  have hexec : exec (.rnd x kk) s = .next (s.takeRandom (Config.randomByte s.draws) x kk) := rfl
  refine ⟨_, hexec, fun k => ?_, rfl, exec_reg_frame hexec, (exec_agree hexec).sameExcept⟩
  rw [State.takeRandom, State.reg_setReg_same, BitVec.getLsbD_and]

/-! ### One register written, no flag (R100 to R102, R105 to R107) -/

theorem onlyRegs_setReg (s : State) (r : Reg) (b : Byte) : OnlyRegs (· = r) s (s.setReg r b) :=
  ⟨fun _ h => State.reg_setReg_ne s b h, (agree_setReg s r b).sameExcept⟩

/-- Settles O28: each is one register write, and `BitVec` addition is the sum modulo 256. -/
theorem loadsAndAddImmediateWriteVx : Obligations.LoadsAndAddImmediateWriteVx := by
  refine fun s x y kk => ⟨⟨_, rfl, State.reg_setReg_same s x kk, onlyRegs_setReg s x _⟩,
    ⟨_, rfl, ?_, onlyRegs_setReg s x _⟩, ⟨_, rfl, State.reg_setReg_same s x _, onlyRegs_setReg s x _⟩⟩
  rw [State.reg_setReg_same, BitVec.toNat_add]

/-- Settles O29: each is one register write of the bitwise combination. -/
theorem logicCombinesBitByBit : Obligations.LogicCombinesBitByBit := by
  refine fun s x y => ⟨⟨_, rfl, fun k => ?_, onlyRegs_setReg s x _⟩, ⟨_, rfl, fun k => ?_, onlyRegs_setReg s x _⟩,
    ⟨_, rfl, fun k => ?_, onlyRegs_setReg s x _⟩⟩
  · rw [State.reg_setReg_same, BitVec.getLsbD_or]
  · rw [State.reg_setReg_same, BitVec.getLsbD_and]
  · rw [State.reg_setReg_same, BitVec.getLsbD_xor]

/-! ### Result and flag (R104, R108 to R112) -/

theorem toNat_flagByte (c : Bool) : (flagByte c).toNat = c.toNat := by
  cases c <;> rfl

/-- The two writes of a flag-writing operation with result `m` and flag `f`: the flag is last, so `VF` holds it whatever
`x` is, and `V[x]` holds the result unless it is `VF` (R104, D11). -/
theorem writeWithFlag_spec (s : State) (x : Reg) {b : Byte} {c : Bool} {m f : Nat} (hb : b.toNat = m)
    (hc : c.toNat = f) :
    (x ≠ regF → ((s.writeWithFlag x b c).reg x).toNat = m) ∧ ((s.writeWithFlag x b c).reg regF).toNat = f ∧
      OnlyRegs (fun r => r = x ∨ r = regF) s (s.writeWithFlag x b c) := by
  refine ⟨fun hx => ?_, ?_, fun r hr => ?_, (agree_writeWithFlag s x b c).sameExcept⟩
  · rw [State.writeWithFlag_eq, State.reg_setReg_ne _ _ hx, State.reg_setReg_same, hb]
  · rw [State.writeWithFlag_eq, State.reg_setReg_same, toNat_flagByte, hc]
  · obtain ⟨hx, hf⟩ := not_or.mp hr
    exact reg_writeWithFlag_ne s b c hx hf

theorem toNat_sub_byte (a b : Byte) : (a - b).toNat = (a.toNat + 256 - b.toNat) % 256 := by
  bv_omega

theorem toNat_shrOut (a : Byte) : (shrOut a).toNat = a.toNat % 2 := by
  rw [shrOut, BitVec.getLsbD, Nat.toNat_testBit, pow_zero, Nat.div_one]

theorem toNat_shlOut (a : Byte) : (shlOut a).toNat = a.toNat / 128 := by
  have := a.isLt
  rw [shlOut, BitVec.getLsbD, Nat.toNat_testBit]
  omega

theorem toNat_ushiftRight_one (a : Byte) : (a >>> 1).toNat = a.toNat / 2 := by
  rw [BitVec.toNat_ushiftRight, Nat.shiftRight_one]

theorem toNat_shiftLeft_one (a : Byte) : (a <<< 1).toNat = 2 * a.toNat % 256 := by
  rw [BitVec.toNat_shiftLeft, Nat.shiftLeft_eq, pow_one, Nat.mul_comm]

/-- Settles O30: `BitVec` addition is the sum modulo 256, and the flag decides the carry. -/
theorem addSetsSumAndCarry : Obligations.AddSetsSumAndCarry := fun s x _ =>
  ⟨_, rfl, writeWithFlag_spec s x (BitVec.toNat_add _ _) (Bool.cond_decide _ _ _)⟩

/-- Settles O31: the two differ in which operand is the minuend. -/
theorem subtractsSetDifferenceAndStrictFlag : Obligations.SubtractsSetDifferenceAndStrictFlag := fun s x _ =>
  ⟨⟨_, rfl, writeWithFlag_spec s x (toNat_sub_byte _ _) (Bool.cond_decide _ _ _)⟩,
    ⟨_, rfl, writeWithFlag_spec s x (toNat_sub_byte _ _) (Bool.cond_decide _ _ _)⟩⟩

/-- Settles O32: a shift is the halved or the doubled operand, with its lowest or highest bit as the flag. -/
theorem shiftsHalveAndDoubleWithTheBitShiftedOut : Obligations.ShiftsHalveAndDoubleWithTheBitShiftedOut := fun s x _ =>
  ⟨⟨_, rfl, writeWithFlag_spec s x (toNat_ushiftRight_one _) (toNat_shrOut _)⟩,
    ⟨_, rfl, writeWithFlag_spec s x (toNat_shiftLeft_one _) (toNat_shlOut _)⟩⟩

/-! ### The index register (R103, R140, R141) -/

theorem toNat_add_widen (w : Word) (b : Byte) : (w + widen b).toNat = (w.toNat + b.toNat) % 65536 := by
  rw [BitVec.toNat_add, toNat_widen]

/-- Settles O46: each is one write to `I`. -/
theorem indexRegisterWrites : Obligations.IndexRegisterWrites := fun s x nnn =>
  ⟨⟨_, rfl, toNat_target nnn, (agree_setI s _).sameExcept⟩,
    ⟨_, rfl, toNat_add_widen s.i (s.reg x), (agree_setI s _).sameExcept⟩,
    ⟨_, rfl, toNat_glyphAddr (s.reg x), (agree_setI s _).sameExcept⟩⟩

end Sys2Proof.Machine
end

section
/-! PROOFS. The display (43_display.md R121 to R124): CLS, the placement of a sprite byte, and DRW where it fits, where
it does not, and twice. -/

namespace Sys2Proof.Machine

/-! ### Clear (R121) -/

/-- Settles O35: CLS replaces the display by 32 zero rows. -/
theorem clearZeroesEveryRow : Obligations.ClearZeroesEveryRow := fun s =>
  ⟨_, rfl, fun _ h => Vector.getElem_replicate h, (agree_setDisp s _).sameExcept⟩

/-! ### Placement (R123, D12) -/

/-- Column `c` of a placed byte, on either side of `vx`: left of it the bit's number is above 7, and the bit 0. -/
theorem getLsbD_place (b : Byte) (vx : Nat) {c : Nat} (hc : c < 64) :
    (place b vx).getLsbD (63 - c) = (decide (c < vx + 8) && b.getLsbD (7 + vx - c)) := by
  unfold place
  split
  · rw [BitVec.getLsbD_shiftLeft, BitVec.getLsbD_setWidth]
    by_cases h : c < vx + 8
    · rw [show 63 - c - (56 - vx) = 7 + vx - c by omega]
      simp [h, show ¬ 63 - c < 56 - vx by omega, show 63 - c < 64 by omega, show 7 + vx - c < 64 by omega]
    · simp [h, show 63 - c < 56 - vx by omega]
  · rw [BitVec.getLsbD_ushiftRight, BitVec.getLsbD_setWidth, show vx - 56 + (63 - c) = 7 + vx - c by omega]
    by_cases h : 7 + vx - c < 64
    · simp [h, show c < vx + 8 by omega]
    · simp [h, BitVec.getLsbD_of_ge b (7 + vx - c) (by omega)]

/-- Settles O38: from `vx` on the bit's number is 7 less the distance from `vx`; left of it there is no such bit. -/
theorem placementPutsPixelsOrDropsThem : Obligations.PlacementPutsPixelsOrDropsThem := by
  intro b vx c hc
  rw [getLsbD_place b vx hc]
  by_cases hleft : vx ≤ c
  · rw [show 7 + vx - c = 7 - (c - vx) by omega]
    simp [hleft]
  · simp [hleft, BitVec.getLsbD_of_ge b (7 + vx - c) (by omega)]

/-! ### DRW by its blit (R122, R177) -/

theorem exec_drw_blit_ok {x y : Reg} {n : Nat} {s : State} {d : Vector Row 32} {c : Bool}
    (h : s.blit (s.reg x).toNat (s.reg y).toNat n 0 s.disp false = .ok (d, c)) :
    exec (.drw x y n) s = .next ((s.setDisp d).setReg regF (flagByte c)) := by
  simp only [exec, execDrw, h]

theorem exec_drw_blit_error {x y : Reg} {n : Nat} {s : State} {f : Fault}
    (h : s.blit (s.reg x).toNat (s.reg y).toNat n 0 s.disp false = .error f) :
    exec (.drw x y n) s = .fault f := by
  simp only [exec, execDrw, h, raise]

theorem flagByte_eq_one_iff (c : Bool) : flagByte c = 1 ↔ c = true := by
  cases c <;> decide

/-- Settles O36: the blit from sprite row 0 with no collision so far, then the flag. -/
theorem drawXorsTheSprite : Obligations.DrawXorsTheSprite := by
  intro s x y n hfit
  obtain ⟨d, c, hblit, hrows, hflag⟩ := s.blit_ok (s.reg x).toNat (s.reg y).toNat n 0 s.disp false
    (by simpa [State.dataAddr] using hfit)
  have hexec := exec_drw_blit_ok hblit
  refine ⟨_, hexec, hrows, reg_regF_of_flag _ c, ?_, exec_reg_frame hexec, (exec_agree hexec).sameExcept⟩
  rw [State.reg_setReg_same, flagByte_eq_one_iff, hflag]
  simp [collides, State.dataAddr]

/-- Settles O39: the blit from sprite row 0 raises at the first row that is out of bounds. -/
theorem drawOutOfBoundsFaults : Obligations.DrawOutOfBoundsFaults := by
  intro s x y n hn hout
  obtain ⟨r, -, hr, hbefore, hfault⟩ := s.blit_error (s.reg x).toNat (s.reg y).toNat n 0 s.disp false hn
    (by simpa [State.dataAddr] using hout)
  refine ⟨r, by omega, fun q => hbefore q (Nat.zero_le q), ?_⟩
  exact hfault.imp (And.imp_right exec_drw_blit_error) (And.imp_right (And.imp_right exec_drw_blit_error))

/-- Where DRW completes, the sprite fits. -/
theorem fits_of_exec_drw {x y : Reg} {n : Nat} {s t : State} (h : exec (.drw x y n) s = .next t) :
    n = 0 ∨ (s.i.toNat + n ≤ 4096 ∧ (s.reg y).toNat + n ≤ 32) := by
  by_contra hout
  obtain ⟨r, -, -, ⟨-, hfault⟩ | ⟨-, -, hfault⟩⟩ := drawOutOfBoundsFaults s x y n (by omega) (by omega) <;>
    cases h.symm.trans hfault

/-! ### DRW by the row it combines with each display row (R122, R124) -/

/-- What DRW combines with display row `row`: the placed sprite byte, or nothing outside the sprite (R122). -/
def State.spriteRow (s : State) (x y : Reg) (n row : Nat) : Row :=
  if (s.reg y).toNat ≤ row ∧ row < (s.reg y).toNat + n then
    place (s.byteAt (s.i.toNat + (row - (s.reg y).toNat))) (s.reg x).toNat
  else 0

theorem State.spriteRow_congr {s t : State} {x y : Reg} (n row : Nat) (hi : t.i = s.i)
    (hmem : ∀ a, t.byteAt a = s.byteAt a) (hx : t.reg x = s.reg x) (hy : t.reg y = s.reg y) :
    t.spriteRow x y n row = s.spriteRow x y n row := by
  simp only [State.spriteRow, hi, hmem, hx, hy]

/-- Everything a DRW that completes does to the display and to `VF`. -/
theorem exec_drw_inv {x y : Reg} {n : Nat} {s t : State} (h : exec (.drw x y n) s = .next t) :
    (∀ (row : Nat) (hr : row < 32), t.disp[row] = s.disp[row] ^^^ s.spriteRow x y n row) ∧
      (t.reg regF = 0 ∨ t.reg regF = 1) ∧
      (t.reg regF = 1 ↔ ∃ (row : Nat) (hr : row < 32), s.disp[row] &&& s.spriteRow x y n row ≠ 0) := by
  obtain ⟨u, hu, hrows, hbit, hflag, -⟩ := drawXorsTheSprite s x y n (fits_of_exec_drw h)
  cases h.symm.trans hu
  refine ⟨fun row hr => ?_, hbit, hflag.trans (exists₂_congr fun row hr => ?_)⟩
  · rw [hrows row hr, State.spriteRow]
    split
    · rfl
    · exact BitVec.xor_zero.symm
  · rw [← and_assoc, State.spriteRow]
    split
    · next hin => exact and_iff_right hin
    · next hout => simp [hout]

/-- A row and a sprite row collide where the exclusive or turns a lit pixel off (R124). -/
theorem and_ne_zero_iff_turnedOff {n : Nat} (d p : BitVec n) :
    d &&& p ≠ 0 ↔ ∃ k, d.getLsbD k = true ∧ (d ^^^ p).getLsbD k = false := by
  have hpixel (k : Nat) :
      (d.getLsbD k = true ∧ (d ^^^ p).getLsbD k = false) ↔ (d &&& p).getLsbD k = true := by
    rw [BitVec.getLsbD_xor, BitVec.getLsbD_and]
    cases d.getLsbD k <;> simp
  simp only [hpixel]
  constructor
  · intro hne
    by_contra hall
    exact hne (BitVec.eq_of_getLsbD_eq fun k _ => by simpa using not_exists.mp hall k)
  · rintro ⟨k, hk⟩ h0
    simp [h0] at hk

/-- Settles O37: row by row, the collision of R122 is a lit pixel turned off. -/
theorem collisionIsALitPixelTurnedOff : Obligations.CollisionIsALitPixelTurnedOff := by
  intro s t x y n h
  obtain ⟨hrows, hbit, hflag⟩ := exec_drw_inv h
  have hone : t.reg regF = 1 ↔ ∃ (row : Nat) (h : row < 32) (k : Nat),
      s.disp[row].getLsbD k = true ∧ t.disp[row].getLsbD k = false :=
    hflag.trans (exists₂_congr fun row hr => by rw [hrows row hr, and_ne_zero_iff_turnedOff])
  refine ⟨hone, ?_⟩
  rw [← hone]
  rcases hbit with h0 | h1
  · simp [h0]
  · simp [h1]

/-- Settles O40: both draws combine the same sprite rows, so the second exclusive or undoes the first; its collisions
are the pixels it turns off (O37), which are those that the first turned on. -/
theorem drawingTwiceRestoresTheDisplay : Obligations.DrawingTwiceRestoresTheDisplay := by
  intro s t x y n h hx hy
  have hframe := exec_agree h
  have hi : t.i = s.i := hframe .i (by simp [writes])
  have hmem := hframe.byteAt (by simp [writes])
  obtain ⟨u, hu, -⟩ := drawXorsTheSprite t x y n (by rw [hi, hy]; exact fits_of_exec_drw h)
  obtain ⟨hfirst, -⟩ := exec_drw_inv h
  obtain ⟨hsecond, -⟩ := exec_drw_inv hu
  have hdisp : u.disp = s.disp := by
    ext row hr : 1
    rw [hsecond row hr, hfirst row hr, State.spriteRow_congr n row hi hmem hx hy,
      BitVec.xor_assoc, BitVec.xor_self, BitVec.xor_zero]
  obtain ⟨hcollision, -⟩ := collisionIsALitPixelTurnedOff t u x y n hu
  rw [hdisp] at hcollision
  exact ⟨u, hu, hdisp, hcollision.trans (exists₂_congr fun _ _ => exists_congr fun _ => and_comm)⟩

end Sys2Proof.Machine
end

section
/-! PROOFS. Keys and timers (44_keys_timers.md R130 to R135): the skips on a key, the moves between a register and a
timer, and the wait for a key from LD Vx,K to the KeyDown that ends it (R77, R154). -/

namespace Sys2Proof.Machine

/-! ### The skips on a key (R130, R131, R176) -/

/-- Settles O41: SKP is a skip on the latch, SKNP a skip on its negation. -/
theorem keySkipsReadTheLatch : Obligations.KeySkipsReadTheLatch := by
  intro s x h hpc
  have hlatch : s.keyLatch (s.reg x).toNat = .ok s.key[(s.reg x).toNat] := State.keyLatch_ok s h
  have hskp : exec (.skp x) s = .next (s.skipIf s.key[(s.reg x).toNat]) :=
    (execSkp_eq_conclude x s).trans (by rw [hlatch]; rfl)
  have hsknp : exec (.sknp x) s = .next (s.skipIf (!s.key[(s.reg x).toNat])) :=
    (execSknp_eq_conclude x s).trans (by rw [hlatch]; rfl)
  refine ⟨⟨_, hskp, skipIf_spec hpc .rfl⟩, ⟨_, hsknp, ?_⟩⟩
  rw [← ite_not]
  exact skipIf_spec hpc (by simp)

/-- Settles O42: the latch of a number above 15 cannot be read, and both instructions raise what the read raises. -/
theorem keySkipsFaultAboveFifteen : Obligations.KeySkipsFaultAboveFifteen := by
  intro s x h
  have hlatch : s.keyLatch (s.reg x).toNat = .error (.invalidKey (s.reg x).toNat) := State.keyLatch_error s h
  exact ⟨(execSkp_eq_conclude x s).trans (by rw [hlatch]; rfl),
    (execSknp_eq_conclude x s).trans (by rw [hlatch]; rfl)⟩

/-! ### Registers and timers (R132, R134, R135) -/

/-- Settles O43: each is one write, of a register or of a timer. -/
theorem timerMovesCopyOneByte : Obligations.TimerMovesCopyOneByte := fun s x =>
  ⟨⟨_, rfl, State.reg_setReg_same s x s.dt, onlyRegs_setReg s x _⟩,
    ⟨_, rfl, State.setDt_dt s (s.reg x), (agree_setDt s _).sameExcept⟩,
    ⟨_, rfl, State.setSt_st s (s.reg x), (agree_setSt s _).sameExcept⟩⟩

/-! ### The wait for a key (R133, R77, R154) -/

/-- Settles O44: the one write is to the wait marker. -/
theorem waitForKeyOnlySetsTheMarker : Obligations.WaitForKeyOnlySetsTheMarker := fun s x =>
  ⟨_, rfl, State.setWait_wait s (some x), (agree_setWait s _).sameExcept⟩

theorem agree_setKey (s : State) (k : Reg) (down : Bool) : Agree [.key] s (s.setKey k down) := by
  intro e he; cases e <;> simp [Elem.SameField] at he ⊢

/-- A run in two parts: the second starts where the first ends. -/
theorem runHost_append (ts us : List Transaction) (s : State) :
    runHost (ts ++ us) s =
      ((runHost ts s).1 ++ (runHost us (runHost ts s).2).1, (runHost us (runHost ts s).2).2) := by
  induction ts generalizing s with
  | nil => rfl
  | cons t ts ih => simp only [List.cons_append, runHost, ih]

/-- A Step of a running core whose instruction completes. -/
theorem transact_step_executed {s t : State} {i : Instr} (hf : s.fault = none) (hw : s.wait = none)
    (hi : s.nextInstr = .ok i) (h : exec i s.advance = .next t) : transact .step s = (.executed, t) := by
  simp [transact, unlessFaulted, hf, hw, step_running s i hf hw hi, h, settle]

/-- KeyDown of a key that exists, on a core without a fault (R154). -/
theorem transact_keyDown {s : State} (hf : s.fault = none) (k : Reg) :
    transact (.keyDown k.val) s = (.done, (s.setKey k true).wake k) := by
  simp [transact, unlessFaulted, hf, State.doKeyDown, conclude, settle]

theorem State.wake_awaiting {s : State} {x : Reg} (hw : s.wait = some x) (k : Reg) :
    s.wake k = (s.setReg x (BitVec.ofNat 8 k.val)).setWait none := by
  simp only [State.wake, hw]

/-- The state after a wait for `Vx` that began in `s` and that key `k` ended. -/
def State.keyReceived (s : State) (x k : Reg) : State :=
  ((s.advance.setKey k true).setReg x (BitVec.ofNat 8 k.val)).setWait none

/-- The KeyDown that follows LD Vx,K writes the latch and `Vx`, and takes back the marker that the LD set. -/
theorem transact_keyDown_awaiting {s : State} (hf : s.fault = none) (x k : Reg) :
    transact (.keyDown k.val) (s.advance.setWait (some x)) = (.done, s.keyReceived x k) := by
  rw [transact_keyDown (s := s.advance.setWait (some x)) hf k, State.wake_awaiting (x := x) rfl]
  rfl

/-- The whole wait: LD Vx,K, any number of Idle Steps, KeyDown. -/
theorem runHost_wait {s : State} {x : Reg} (hf : s.fault = none) (hw : s.wait = none)
    (hi : s.nextInstr = .ok (.ldVxK x)) (k : Reg) (n : Nat) :
    runHost (.step :: (List.replicate n .step ++ [.keyDown k.val])) s =
      (.executed :: (List.replicate n .idle ++ [.done]), s.keyReceived x k) := by
  have hld : transact .step s = (.executed, s.advance.setWait (some x)) := transact_step_executed hf hw hi rfl
  have hidle : runHost (List.replicate n .step) (s.advance.setWait (some x)) =
      (List.replicate n .idle, s.advance.setWait (some x)) :=
    runHost_replicate_of_transact_eq_self (transact_step_awaiting (s := s.advance.setWait (some x)) hf rfl) n
  simp only [runHost, hld, runHost_append, hidle, transact_keyDown_awaiting hf]

/-- On a core that was running, the wait as a whole leaves the marker as it was. -/
theorem sameExcept_keyReceived {s : State} (hw : s.wait = none) (x k : Reg) :
    SameExcept [.v, .key, .pc] s (s.keyReceived x k) := by
  have hframe : Agree [.v, .key, .pc, .wait] s (s.keyReceived x k) :=
    ((agree_setPc s _).mono (by simp)).trans <| ((agree_setKey _ k true).mono (by simp)).trans <|
      ((agree_setReg _ x _).mono (by simp)).trans ((agree_setWait _ none).mono (by simp))
  intro e he
  by_cases hwait : e = .wait
  · subst hwait
    exact hw.symm
  · exact (hframe e (by simpa [hwait] using he)).unchanged

/-- Settles O45: the run ends in the state of `runHost_wait`, of which each clause is read off its writes. -/
theorem keyDownEndsTheWait : Obligations.KeyDownEndsTheWait := by
  intro s x k n hf hw hi
  obtain ⟨hpc, -⟩ := State.nextInstr_inv hi
  refine ⟨s.keyReceived x k, runHost_wait hf hw hi k n, ?_, fun r hr => State.reg_setReg_ne _ _ hr,
    Vector.getElem_set_self k.isLt, fun j hj hne => Vector.getElem_set_ne k.isLt hj hne.symm,
    toNat_add_two (by omega), rfl, sameExcept_keyReceived hw x k⟩
  have hk : k.val < 256 := by omega
  calc ((s.keyReceived x k).reg x).toNat
    _ = (BitVec.ofNat 8 k.val).toNat := congrArg BitVec.toNat (State.reg_setReg_same _ x _)
    _ = k.val := by rw [BitVec.toNat_ofNat, Nat.mod_eq_of_lt hk]

end Sys2Proof.Machine
end

section
/-! PROOFS. Memory accesses by the index register (45_index_memory.md R142 to R144): LD B,Vx, LD [I],Vx and LD Vx,[I],
where they complete and where they fault, and a load after a dump. -/

namespace Sys2Proof.Machine

/-! ### Where a storing instruction completes and where it faults (R142, R143) -/

theorem length_storedBytes_dump (x : Reg) (s : State) : (storedBytes (.dump x) s).length = x.val + 1 := by
  rw [storedBytes, List.length_map, length_regsUpTo]

theorem storedBytes_ne_nil {i : Instr} (s : State) (hi : .mem ∈ writes i) : storedBytes i s ≠ [] := by
  cases i with
  | ldB x => exact List.cons_ne_nil _ _
  | dump x => exact List.ne_nil_of_length_eq_add_one (length_storedBytes_dump x s)
  | _ => simp [writes] at hi

theorem exec_stores_ok {i : Instr} {s : State} (hi : .mem ∈ writes i)
    (hfit : s.i.toNat + (storedBytes i s).length ≤ 4096) :
    exec i s = .next (s.setMem (Memory.copy (storedBytes i s) (s.dataAddr 0) s.mem)) :=
  (exec_eq_storeBytes s hi).trans (congrArg conclude (State.storeBytes_ok _ _ s hfit))

/-- A storing instruction that leaves memory faults at the first address of 4096 or more (R36). -/
theorem exec_stores_fault {i : Instr} {s : State} (hi : .mem ∈ writes i)
    (hout : 4096 < s.i.toNat + (storedBytes i s).length) :
    exec i s = .fault (.outOfBounds (.mem (max s.i.toNat 4096))) :=
  (exec_eq_storeBytes s hi).trans
    (congrArg conclude (State.storeBytes_error _ _ s hout (storedBytes_ne_nil s hi)))

/-! ### The decimal digits (R142) -/

theorem toNat_hundreds (v : Byte) : (hundreds v).toNat = v.toNat / 100 :=
  (BitVec.toNat_ofNat _ 8).trans (Nat.mod_eq_of_lt (by omega))

theorem toNat_tens (v : Byte) : (tens v).toNat = v.toNat / 10 % 10 :=
  (BitVec.toNat_ofNat _ 8).trans (Nat.mod_eq_of_lt (by omega))

theorem toNat_ones (v : Byte) : (ones v).toNat = v.toNat % 10 :=
  (BitVec.toNat_ofNat _ 8).trans (Nat.mod_eq_of_lt (by omega))

/-- Settles O47: LD B,Vx is a run of three stores from `I`, which fits exactly when `I` is at most 4093. -/
theorem bcdStoresThreeDigits : Obligations.BcdStoresThreeDigits := by
  intro s x
  have hi : .mem ∈ writes (.ldB x) := by simp [writes]
  have hlen : (storedBytes (.ldB x) s).length = 3 := rfl
  refine ⟨fun h => ?_, fun h => exec_stores_fault hi (by omega)⟩
  have hexec := exec_stores_ok (s := s) hi (by omega)
  have hbyte {j : Nat} (hj : j < 3) := congrArg BitVec.toNat (byteAt_of_exec_stores hi hexec hj)
  exact ⟨_, hexec, (hbyte (by decide)).trans (toNat_hundreds _), (hbyte (by decide)).trans (toNat_tens _),
    (hbyte (by decide)).trans (toNat_ones _), exec_byteAt_frame hexec, (exec_agree hexec).sameExcept⟩

/-! ### The dump (R143) -/

/-- Settles O48: LD [I],Vx is a run of `x + 1` stores from `I`, which fits exactly when `I + x` is at most 4095. -/
theorem dumpStoresRegistersAscending : Obligations.DumpStoresRegistersAscending := by
  intro s x
  have hi : .mem ∈ writes (.dump x) := by simp [writes]
  have hlen := length_storedBytes_dump x s
  refine ⟨fun h => ?_, fun h => exec_stores_fault hi (by omega)⟩
  have hexec := exec_stores_ok (s := s) hi (by omega)
  exact ⟨_, hexec, fun _ => byteAt_of_exec_dump hexec, exec_byteAt_frame hexec, (exec_agree hexec).sameExcept⟩

/-- Where a dump completes, it fits. -/
theorem fits_of_exec_dump {x : Reg} {s t : State} (h : exec (.dump x) s = .next t) : s.i.toNat + x.val ≤ 4095 := by
  by_contra hout
  obtain ⟨-, hfault⟩ := dumpStoresRegistersAscending s x
  cases h.symm.trans (hfault (by omega))

/-! ### The load (R144) -/

/-- A load that fits: each listed register holds its byte. -/
theorem exec_load_ok {x : Reg} {s : State} (h : s.i.toNat + x.val ≤ 4095) :
    ∃ t, exec (.load x) s = .next t ∧ ∀ k : Reg, k ≤ x → t.reg k = s.byteAt (s.dataAddr k.val) := by
  have hfit (r : Reg) (hr : r ∈ regsUpTo x) : s.dataAddr r.val < 4096 := by
    have hrx : r.val ≤ x.val := (mem_regsUpTo x r).mp hr
    simp only [State.dataAddr]
    omega
  obtain ⟨w, hload, hregs⟩ := State.loadRegs_ok (regsUpTo x) s hfit
  exact ⟨_, congrArg conclude hload, fun k hk => (hregs k).trans (if_pos ((mem_regsUpTo x k).mpr hk))⟩

theorem exec_load_fault {x : Reg} {s : State} (h : 4095 < s.i.toNat + x.val) :
    exec (.load x) s = .fault (.outOfBounds (.mem (max s.i.toNat 4096))) := by
  have hlen := length_regsUpTo x
  have hvals : (regsUpTo x).map Fin.val = List.range' 0 (regsUpTo x).length := by
    rw [regsUpTo_vals, hlen, List.range_eq_range']
  have hout : 4096 < s.dataAddr 0 + (regsUpTo x).length := by
    simp only [State.dataAddr]
    omega
  exact congrArg conclude
    (State.loadRegs_error (regsUpTo x) 0 s hvals hout (List.ne_nil_of_length_eq_add_one hlen))

/-- Settles O49: the run of loads over `V0` to `Vx`, with the frame of the instruction. -/
theorem loadReadsRegistersAscending : Obligations.LoadReadsRegistersAscending := by
  refine fun s x => ⟨fun h => ?_, exec_load_fault⟩
  obtain ⟨t, hexec, hregs⟩ := exec_load_ok h
  exact ⟨t, hexec, hregs, exec_reg_frame hexec, (exec_agree hexec).sameExcept⟩

/-- Settles O50: the dump fits and keeps `I`, so the load fits and reads the bytes that the dump stored. -/
theorem loadAfterDumpRestoresRegisters : Obligations.LoadAfterDumpRestoresRegisters := by
  intro s t x w h
  have hI : t.i = s.i := exec_agree h .i (by simp [writes])
  obtain ⟨u, hload, hregs⟩ := exec_load_ok (s := { t with v := w }) (hI ▸ fits_of_exec_dump h)
  refine ⟨u, hload, fun k hk => ?_, (exec_agree hload).byteAt (by simp [writes])⟩
  have haddr : t.dataAddr k.val = s.dataAddr k.val := congrArg (·.toNat + k.val) hI
  calc u.reg k
    _ = t.byteAt (t.dataAddr k.val) := hregs k hk
    _ = s.reg k := by rw [haddr, byteAt_of_exec_dump h hk]

end Sys2Proof.Machine
end

section
/-! PROOFS. The host's transactions (46_host_interface.md R150 to R155): that every one keeps the invariant, and what
Reset, Load, Tick, KeyDown and KeyUp do. -/

namespace Sys2Proof.Machine

/-! ### The invariant (R14, R15) -/

/-- The invariant speaks of memory, `pc` and the stack alone. -/
theorem State.Inv.of_agree {es : List Elem} {s t : State} (h : s.Inv) (hframe : Agree es s t) (hmem : .mem ∉ es)
    (hpc : .pc ∉ es) (hstack : .stack ∉ es) : t.Inv := by
  have hm : t.mem = s.mem := hframe .mem hmem
  have hp : t.pc = s.pc := hframe .pc hpc
  have hst : t.stack = s.stack := hframe .stack hstack
  simpa only [State.Inv, hm, hp, hst] using h

theorem State.Inv.setMem {s : State} {m : Memory} (h : s.Inv) (hm : Memory.wf m = true) : (s.setMem m).Inv := by
  obtain ⟨-, hpc, hstack⟩ := h
  exact ⟨hm, hpc, hstack⟩

theorem agree_doReset (s : State) : Agree [.draws] State.reset s.doReset := by
  intro e he; cases e <;> simp [Elem.SameField] at he ⊢

theorem inv_doReset (s : State) : s.doReset.Inv :=
  State.Inv.of_agree invariantHoldsAtReset (agree_doReset s) (by simp) (by simp) (by simp)

theorem agree_doTick (s : State) : Agree [.dt, .st] s s.doTick :=
  ((agree_setDt s _).mono (by simp)).trans ((agree_setSt _ _).mono (by simp))

/-- Every state that a transaction can leave meets the invariant: Reset and Load start again from the reset state, a Step
that executes is O9, and the others write no element that the invariant speaks of. -/
theorem Leaves.inv {s u : State} {tr : Transaction} (h : Leaves s tr u) (hs : s.Inv) : u.Inv := by
  cases h with
  | same => exact hs
  | latched _ f => exact hs.of_agree (agree_latch s f) (by simp) (by simp) (by simp)
  | reset => exact inv_doReset s
  | load bytes hlen => exact (inv_doReset s).setMem (Memory.wf_copy bytes 0x200 _ Memory.wf_nil (by omega))
  | executed i t hf hw hi he => exact stepKeepsTheInvariant s _ hs ((step_running s i hf hw hi).trans he)
  | tick => exact hs.of_agree (agree_doTick s) (by simp) (by simp) (by simp)
  | keyDown k =>
    have hkey : (s.setKey k true).Inv := hs.of_agree (agree_setKey s k true) (by simp) (by simp) (by simp)
    exact hkey.of_agree (agree_wake _ k) (by simp) (by simp) (by simp)
  | keyUp k => exact hs.of_agree (agree_setKey s k false) (by simp) (by simp) (by simp)

/-- Settles O10: each of the states that a transaction can leave meets the invariant. -/
theorem transactionsKeepTheInvariant : Obligations.TransactionsKeepTheInvariant := fun tr s hs =>
  (transact_leaves tr s).inv hs

/-! ### Reset (R151) -/

theorem State.nextInstr_unsupported {s : State} {w : Word} {e : DecodeFailure} (hfetch : s.fetch = .ok w)
    (hdec : decodeWord w = .error e) : s.nextInstr = .error (.unsupportedInstruction w) := by
  simp only [State.nextInstr, hfetch, hdec]

/-- With nothing loaded, the two bytes at 0x200 are zero. -/
theorem fetch_doReset (s : State) : s.doReset.fetch = .ok 0x0000 := by
  have hzero {a : Nat} (ha : 80 ≤ a) : s.doReset.byteAt a = 0 := resetByte_zero ha
  have hpc : s.doReset.pc.toNat = 0x200 := rfl
  rw [State.fetch_ok _ (by omega), hzero (by omega), hzero (by omega)]
  rfl

/-- Settles O51: only the counter of draws is not from the reset state, and the fetched word 0x0000 does not decode. -/
theorem resetTransactionRestoresEverything : Obligations.ResetTransactionRestoresEverything := by
  have hdec : decodeWord 0x0000 = .error (.unsupported 0x0000) := rfl
  exact fun s => ⟨s.doReset, rfl, (agree_doReset s).sameExcept, rfl,
    step_nextInstr_error rfl rfl (State.nextInstr_unsupported (fetch_doReset s) hdec)⟩

/-! ### Load (R152) -/

theorem transact_load_ok {bytes : List Byte} (s : State) (h : bytes.length ≤ 3584) :
    transact (.load bytes) s = (.done, s.doReset.setMem (Memory.copy bytes 0x200 s.doReset.mem)) := by
  simp [transact, State.doLoad, h, settle]

theorem transact_load_refused {bytes : List Byte} (s : State) (h : 3584 < bytes.length) :
    transact (.load bytes) s = (.refused .imageTooLong, s) := by
  simp [transact, State.doLoad, Nat.not_le.mpr h, settle]

/-- Settles O52: a Load that fits is one write to memory on the reset state, and the copy gives each byte. -/
theorem loadCopiesTheImage : Obligations.LoadCopiesTheImage := by
  refine fun s bytes => ⟨fun h => ⟨_, transact_load_ok s h, fun k hk => ?_, fun a ha => ?_, ?_, rfl⟩,
    transact_load_refused s⟩
  · have hin : 0x200 ≤ 0x200 + k ∧ 0x200 + k < 0x200 + bytes.length := by omega
    simp only [State.byteAt_setMem, Memory.read_copy, dif_pos hin, Nat.add_sub_cancel_left]
  · rw [State.byteAt_setMem, Memory.read_copy, dif_neg ha]
    rfl
  · exact (((agree_doReset s).mono (by simp)).trans ((agree_setMem _ _).mono (by simp))).sameExcept

/-! ### Tick (R153) -/

theorem toNat_countDown (t : Byte) : (countDown t).toNat = t.toNat - 1 := by
  unfold countDown
  split
  case isTrue hzero => rw [hzero]; rfl
  case isFalse hne => bv_omega

theorem transact_tick {s : State} (hf : s.fault = none) : transact .tick s = (.done, s.doTick) := by
  simp [transact, unlessFaulted, hf]

/-- A run of Ticks: each takes 1 off both timers, held at 0, and does not fault the core. -/
theorem runHost_ticks (n : Nat) {s : State} (hf : s.fault = none) :
    ∃ u, runHost (List.replicate n .tick) s = (List.replicate n .done, u) ∧
      u.dt.toNat = s.dt.toNat - n ∧ u.st.toNat = s.st.toNat - n ∧ Agree [.dt, .st] s u := by
  induction n generalizing s with
  | zero => exact ⟨s, rfl, rfl, rfl, .refl _ s⟩
  | succ n ih =>
    obtain ⟨u, hrun, hdt, hst, hframe⟩ := ih (s := s.doTick) hf
    have hdt1 : s.doTick.dt.toNat = s.dt.toNat - 1 := toNat_countDown s.dt
    have hst1 : s.doTick.st.toNat = s.st.toNat - 1 := toNat_countDown s.st
    refine ⟨u, ?_, by omega, by omega, (agree_doTick s).trans hframe⟩
    simp only [List.replicate_succ, runHost, transact_tick hf, hrun]

/-- Settles O53, by the induction of `runHost_ticks` on the number of Ticks. -/
theorem ticksCountBothTimersDown : Obligations.TicksCountBothTimersDown := by
  intro s n hf
  obtain ⟨u, hrun, hdt, hst, hframe⟩ := runHost_ticks n hf
  exact ⟨u, hrun, hdt, hst, hframe.sameExcept⟩

/-! ### KeyDown and KeyUp (R154, R155) -/

theorem State.wake_running {s : State} (hw : s.wait = none) (k : Reg) : s.wake k = s := by
  simp only [State.wake, hw]

/-- KeyUp of a key that exists, on a core without a fault (R155). -/
theorem transact_keyUp {s : State} (hf : s.fault = none) (k : Reg) :
    transact (.keyUp k.val) s = (.done, s.setKey k false) := by
  simp [transact, unlessFaulted, hf, State.doKeyUp, conclude, settle]

/-- One latch written: it has the new level, every other latch and every other element is as it was. -/
theorem setKey_spec (s : State) (k : Reg) (down : Bool) :
    (s.setKey k down).key[k.val] = down ∧
      (∀ (j : Nat) (hj : j < 16), j ≠ k.val → (s.setKey k down).key[j] = s.key[j]) ∧
      SameExcept [.key] s (s.setKey k down) :=
  ⟨Vector.getElem_set_self k.isLt, fun _ hj hne => Vector.getElem_set_ne k.isLt hj hne.symm,
    (agree_setKey s k down).sameExcept⟩

/-- Settles O54: each is one write to a latch; with no key awaited KeyDown wakes no instruction. -/
theorem keyEventsSetAndClearTheLatch : Obligations.KeyEventsSetAndClearTheLatch := by
  intro s k h hf
  refine ⟨fun hw => ⟨_, ?_, setKey_spec s ⟨k, h⟩ true⟩, _, transact_keyUp hf ⟨k, h⟩, setKey_spec s ⟨k, h⟩ false⟩
  rw [transact_keyDown hf ⟨k, h⟩, State.wake_running (s := s.setKey ⟨k, h⟩ true) hw]

theorem transact_keyDown_invalid {s : State} {k : Nat} (hf : s.fault = none) (h : 15 < k) :
    transact (.keyDown k) s = (.fault (.invalidKey k), s.latch (.invalidKey k)) := by
  have hk : ¬ k < 16 := by omega
  simp [transact, unlessFaulted, hf, State.doKeyDown, hk, conclude, raise, settle]

theorem transact_keyUp_invalid {s : State} {k : Nat} (hf : s.fault = none) (h : 15 < k) :
    transact (.keyUp k) s = (.fault (.invalidKey k), s.latch (.invalidKey k)) := by
  have hk : ¬ k < 16 := by omega
  simp [transact, unlessFaulted, hf, State.doKeyUp, hk, conclude, raise, settle]

/-- Settles O55: both check the number first and latch the fault they answer. -/
theorem keyEventsFaultAboveFifteen : Obligations.KeyEventsFaultAboveFifteen := fun s _ h hf =>
  ⟨⟨_, transact_keyDown_invalid hf h, State.latch_fault s _⟩, ⟨_, transact_keyUp_invalid hf h, State.latch_fault s _⟩⟩

end Sys2Proof.Machine
end

section
/-! PROOFS. The faults (60_exceptions.md R170, R171, R177): what each operation that may fault can raise, which cause is
left to each instruction, and the word that is no instruction. -/

namespace Sys2Proof.Machine

/-! ### The cause that each operation can raise -/

theorem State.push_error_inv {s : State} {f : Fault} (h : s.push = .error f) : f = .stackOverflow := by
  by_cases hs : s.sp.val < 16
  · cases (State.push_ok s hs).symm.trans h
  · cases (State.push_full s (by omega)).symm.trans h
    rfl

theorem State.pop_error_inv {s : State} {f : Fault} (h : s.pop = .error f) : f = .stackUnderflow := by
  by_cases hs : 0 < s.sp.val
  · cases (State.pop_ok s hs).symm.trans h
  · cases (State.pop_empty s (by omega)).symm.trans h
    rfl

theorem State.keyLatch_error_inv {s : State} {k : Nat} {f : Fault} (h : s.keyLatch k = .error f) :
    f = .invalidKey k := by
  by_cases hk : k < 16
  · cases (State.keyLatch_ok s hk).symm.trans h
  · cases (State.keyLatch_error s (by omega)).symm.trans h
    rfl

/-- A blit raises OutOfBounds alone, with a memory address or with a display row (R122). -/
theorem State.blit_error_inv {s : State} {vx vy k r : Nat} {d : Vector Row 32} {c : Bool} {f : Fault}
    (h : s.blit vx vy k r d c = .error f) : ∃ info, f = .outOfBounds info := by
  by_cases hfit : k = 0 ∨ (s.dataAddr (r + k) ≤ 4096 ∧ vy + r + k ≤ 32)
  · obtain ⟨d', c', hok, -⟩ := s.blit_ok vx vy k r d c hfit
    cases hok.symm.trans h
  · obtain ⟨j, -, -, -, ⟨-, herr⟩ | ⟨-, -, herr⟩⟩ := s.blit_error vx vy k r d c (by omega) (by omega)
    · exact ⟨_, Except.error.inj (h.symm.trans herr)⟩
    · exact ⟨_, Except.error.inj (h.symm.trans herr)⟩

/-! ### The cause that each instruction can raise (R170, R177) -/

theorem conclude_fault {e : Except Fault State} {f : Fault} (h : conclude e = .fault f) : e = .error f := by
  cases e with
  | ok s => cases h
  | error g => cases h; rfl

/-- What follows a check raises nothing: the fault is the check's own. -/
theorem conclude_map_fault {α : Type} {e : Except Fault α} {g : α → State} {f : Fault}
    (h : conclude (e.map g) = .fault f) : e = .error f := by
  cases e with
  | ok a => cases h
  | error => cases h; rfl

theorem exec_stores_fault_inv {i : Instr} {s : State} {f : Fault} (hi : .mem ∈ writes i) (h : exec i s = .fault f) :
    ∃ a, f = .outOfBounds (.mem a) := by
  by_cases hfit : s.i.toNat + (storedBytes i s).length ≤ 4096
  · cases (exec_stores_ok hi hfit).symm.trans h
  · cases (exec_stores_fault hi (by omega)).symm.trans h
    exact ⟨_, rfl⟩

theorem exec_load_fault_inv {x : Reg} {s : State} {f : Fault} (h : exec (.load x) s = .fault f) :
    ∃ a, f = .outOfBounds (.mem a) := by
  by_cases hfit : s.i.toNat + x.val ≤ 4095
  · obtain ⟨t, hok, -⟩ := exec_load_ok hfit
    cases hok.symm.trans h
  · cases (exec_load_fault (by omega)).symm.trans h
    exact ⟨_, rfl⟩

/-- Settles O21: an instruction that may fault raises what its one checked operation raises; every other one answers a
next state. -/
theorem instructionsRaiseOnlyTheirOwnCause : Obligations.InstructionsRaiseOnlyTheirOwnCause := by
  intro i s f h
  cases i with
  | call nnn => exact State.push_error_inv (conclude_map_fault ((execCall_eq_conclude nnn s).symm.trans h))
  | ret => exact State.pop_error_inv (conclude_fault h)
  | drw x y n => exact State.blit_error_inv (conclude_map_fault ((execDrw_eq_conclude x y n s).symm.trans h))
  | skp x => exact ⟨_, State.keyLatch_error_inv (conclude_map_fault ((execSkp_eq_conclude x s).symm.trans h))⟩
  | sknp x => exact ⟨_, State.keyLatch_error_inv (conclude_map_fault ((execSknp_eq_conclude x s).symm.trans h))⟩
  | ldB | dump => exact exec_stores_fault_inv (by simp [writes]) h
  | load => exact exec_load_fault_inv h
  | _ => cases h

/-! ### UnsupportedInstruction (R171) -/

/-- The fault table gives UnsupportedInstruction to no instruction. -/
theorem not_mayRaise_unsupportedInstruction (i : Instr) (w : Word) : ¬ mayRaise i (.unsupportedInstruction w) := by
  intro h
  cases i with
  | call | ret => cases h
  | drw | ldB | dump | load | skp | sknp => obtain ⟨_, h⟩ := h; cases h
  | _ => exact h

/-- Settles O13: a word that selects no row does not decode, and no instruction has this fault as its own cause. -/
theorem unsupportedWordsFault : Obligations.UnsupportedWordsFault := by
  refine ⟨fun s w hf hw hfetch hnone => ?_, fun i s w h => ?_⟩
  · obtain ⟨-, hdec, -⟩ := decoderAgreesWithTheOpcodeMap
    exact step_nextInstr_error hf hw (State.nextInstr_unsupported hfetch (hdec w hnone))
  · exact not_mayRaise_unsupportedInstruction i w (instructionsRaiseOnlyTheirOwnCause i s _ h)

end Sys2Proof.Machine
end

section
/-! PROOFS. The state after reset (70_reset_and_hazards.md R191). -/

namespace Sys2Proof.Machine

/-- Nothing is listed in memory at reset, so every address reads as its reset contents. -/
theorem State.byteAt_reset (a : Nat) : State.reset.byteAt a = resetByte a := rfl

theorem State.reg_reset (r : Reg) : State.reset.reg r = 0 := Vector.getElem_replicate r.isLt

/-- Settles O7: the array elements are replicated zeros, memory is the font and then zeros, and the scalars are as
`State.reset` gives them. -/
theorem resetValues : Obligations.ResetValues := by
  have hstack (k : Nat) (hk : k < 16) : State.reset.stack[k] = 0 := Vector.getElem_replicate hk
  have hkey (k : Nat) (hk : k < 16) : State.reset.key[k] = false := Vector.getElem_replicate hk
  have hdisp (r : Nat) (hr : r < 32) : State.reset.disp[r] = 0 := Vector.getElem_replicate hr
  have hfont (a : Nat) (ha : a < 80) : State.reset.byteAt a = Config.font[a] :=
    (State.byteAt_reset a).trans (resetByte_font ha)
  have hzero (a : Nat) (ha : 0x50 ≤ a) : State.reset.byteAt a = 0 :=
    (State.byteAt_reset a).trans (resetByte_zero ha)
  exact ⟨State.reg_reset, rfl, rfl, hstack, rfl, hfont, hzero, rfl, rfl, hkey, hdisp, rfl, rfl⟩

end Sys2Proof.Machine
end
